-- ==== Sys2Proof/Word.lean ====
section
/-!
DEFINITION. The byte; the one record of the parameters the source fixes (spec 00_scope.md R5), with a short name for each
and for the sizes that follow from them; and the word types whose widths those parameters are (00_scope.md R9, R10;
10_state.md R21, R22, R26; 40_codec.md R115).
-/

namespace Sys2Proof

/-- A byte; bit `j` is the bit of weight `2^j` (R9). -/
abbrev Byte := BitVec 8

/-! ## R5: the parameters the source fixes. Their values stand in `fixedParams` and nowhere else in the model. -/

/-- The parameters of R5, one field for each row of its table, in its order. -/
structure FixedParams where
  /-- `N_KEYS`: logical touch keys. -/
  nKeys : Nat
  /-- `N_CH`: physical serial channels; `Channel` names them. -/
  nCh : Nat
  /-- `KEYS_PER_CH`: keys 0..119 belong to `R`, 120..239 to `L`. -/
  keysPerCh : Nat
  /-- `RAW_LEN`: bytes of a bitmap ingest frame. -/
  rawLen : Nat
  /-- `RESET_BYTE`: the byte of the 1-byte reset ingest frame, ASCII "G". -/
  resetByte : Byte
  /-- `FRAME_LEN`: bytes of a ChannelFrame. -/
  frameLen : Nat
  /-- `HEADER`: byte 0 of a ChannelFrame. -/
  header : Byte
  /-- `CTR_POS`: offset of the frame counter byte. -/
  ctrPos : Nat
  /-- `CTR_MOD`: the counter runs 0..127. -/
  ctrMod : Nat
  /-- `SUM_POS`: offset of the checksum byte. -/
  sumPos : Nat
  /-- `GROUP`: key bits per packed group. -/
  group : Nat
  /-- `FILL`: filler bits after each group. -/
  fill : Nat
  /-- `OFFSET0`: additive constant of the remap formula. -/
  offset0 : Nat
  /-- `CMD_ERRSTAT`: the error-status command byte. -/
  cmdErrstat : Byte
  /-- `SYNC_TRAIL`: last byte of the sync-board-version response. -/
  syncTrail : Byte
  /-- `VER_LEN`: characters in each version string. -/
  verLen : Nat
  /-- `UNIT_REPS`: repetitions of the unit version string. -/
  unitReps : Nat
  /-- `N_CAL`: calibration tables. -/
  nCal : Nat
  /-- `CAL_VALUES`: values per calibration table. A table is an opaque byte string whose length does not follow from this
  (R88, 91_not_in_source.md N6), so nothing in the model reads it. -/
  calValues : Nat
  /-- `SHORT_LEN`: bytes of each mystery or acknowledgment payload. -/
  shortLen : Nat
  /-- `POLL_PERIOD` in milliseconds: no rule depends on it (R270), and nothing in the model reads it. -/
  pollPeriodMs : Nat
  /-- `WAKE_TIMEOUT` in milliseconds: no rule depends on it (R271), and nothing in the model reads it. -/
  wakeTimeoutMs : Nat
  deriving DecidableEq, Repr

/-- R5. -/
abbrev fixedParams : FixedParams where
  nKeys := 240
  nCh := 2
  keysPerCh := 120
  rawLen := 30
  resetByte := 71
  frameLen := 36
  header := 129
  ctrPos := 34
  ctrMod := 128
  sumPos := 35
  group := 5
  fill := 3
  offset0 := 7
  cmdErrstat := 154
  syncTrail := 0x2C
  verLen := 6
  unitReps := 6
  nCal := 3
  calValues := 16
  shortLen := 3
  pollPeriodMs := 16
  wakeTimeoutMs := 1000

/-! Short names for the fields that the model and its laws read. -/

abbrev Param.nKeys : Nat := fixedParams.nKeys
abbrev Param.nCh : Nat := fixedParams.nCh
abbrev Param.keysPerCh : Nat := fixedParams.keysPerCh
abbrev Param.rawLen : Nat := fixedParams.rawLen
def Param.resetByte : Byte := fixedParams.resetByte
abbrev Param.frameLen : Nat := fixedParams.frameLen
def Param.header : Byte := fixedParams.header
abbrev Param.ctrPos : Nat := fixedParams.ctrPos
abbrev Param.ctrMod : Nat := fixedParams.ctrMod
abbrev Param.sumPos : Nat := fixedParams.sumPos
abbrev Param.group : Nat := fixedParams.group
abbrev Param.fill : Nat := fixedParams.fill
abbrev Param.offset0 : Nat := fixedParams.offset0
def Param.cmdErrstat : Byte := fixedParams.cmdErrstat
def Param.syncTrail : Byte := fixedParams.syncTrail
abbrev Param.verLen : Nat := fixedParams.verLen
abbrev Param.unitReps : Nat := fixedParams.unitReps
abbrev Param.nCal : Nat := fixedParams.nCal
abbrev Param.shortLen : Nat := fixedParams.shortLen

/-! ## Sizes that follow from them -/

/-- The width of the counter, 7 bits (R26). -/
abbrev Param.ctrBits : Nat := Nat.log2 Param.ctrMod
/-- Bytes 1..33 of a ChannelFrame, those between the header and the counter. -/
abbrev Param.packedLen : Nat := Param.ctrPos - 1
/-- Data bytes of a ChannelFrame, bytes 1..24 (R90): one for each group of keys. -/
abbrev Param.dataBytes : Nat := Param.keysPerCh / Param.group
/-- The packed offset of a channel's first key, 8 (R112). -/
abbrev Param.firstOffset : Nat := Param.offset0 + 1
/-- The packed offset of a channel's last key, 196 (R112). -/
abbrev Param.lastOffset : Nat :=
  Param.keysPerCh + (Param.keysPerCh - 1) / Param.group * Param.fill + Param.offset0
/-- Bits of a data byte that carry no key, bits 7..5 (R91). -/
abbrev Param.fillerMask : Byte := BitVec.ofNat 8 0xFF <<< Param.group

/-! ## Word types -/

/-- The key bitmap `keys[0..239]`: key `k` is bit `k` (R21). -/
abbrev Keys := BitVec Param.nKeys

/-- A 30-byte raw touch frame, `f[0..29]` (R22, R95). -/
abbrev RawFrame := Vector Byte Param.rawLen

/-- Bytes 1..33 of a ChannelFrame, `P[1..33]`: entry `b - 1` of the vector is `P[b]` (R115). -/
abbrev Packed := Vector Byte Param.packedLen

/-- A value of the frame counter, 0..127 (R26). -/
abbrev Counter := BitVec Param.ctrBits

end Sys2Proof
end

