-- ==== Sys2Proof/Syntax.lean ====
section
/-!
DEFINITION. The operations of the block, one constructor per row of spec/opcode_table.json (30_encoding.md R80 to R97),
and the events of an execution (00_scope.md R12, 20_memory.md R67).
-/

namespace Sys2Proof

/-- The two physical serial channels, right and left (R5). -/
inductive Channel where
  | R
  | L
  deriving DecidableEq, Repr, Inhabited

/-- The other channel. -/
def Channel.other : Channel → Channel
  | .R => .L
  | .L => .R

/-- The operations of the opcode table. A command carries the channel its byte was received on (42_channel_protocol.md);
the operands of a codec operation are those of its rule in 40_codec.md. -/
inductive Instr where
  /-- R151, sync-board-version query. -/
  | syncver (c : Channel)
  /-- R152, next-read, command-byte phase. -/
  | nextread (c : Channel)
  /-- R153, next-read, selector phase. -/
  | nextreadSel (c : Channel) (sel : Byte)
  /-- R154, unit-board-version query. -/
  | unitver (c : Channel)
  /-- R155, mystery-1. -/
  | myst1 (c : Channel)
  /-- R156, mystery-2. -/
  | myst2 (c : Channel)
  /-- R157, start-auto-scan. -/
  | start (c : Channel)
  /-- R158, error-status byte. -/
  | errstat (c : Channel)
  /-- R159, any other byte. -/
  | other (c : Channel) (b : Byte)
  /-- R201, the 1-byte reset signal. -/
  | ingReset
  /-- R202, a 30-byte bitmap frame. -/
  | ingBitmap (f : RawFrame)
  /-- R204, a frame that is neither. -/
  | ingMalformed (f : List Byte)
  /-- R110, key index to channel and packed offset. -/
  | remap (k : Nat)
  /-- R113, the inverse of `remap`. -/
  | unmap (c : Channel) (off : Nat)
  /-- R115, the serializer, applied to the block's `keys`. -/
  | pack (c : Channel)
  /-- R123, the bit-level encoder in packed form. -/
  | setkey (p : Packed) (off : Nat) (v : Bool)
  /-- R116, XOR-fold of the first `n` bytes. -/
  | checksum (s : List Byte) (n : Nat)
  /-- R117, frame build. -/
  | buildframe (p : Packed) (n : Counter)
  /-- R119, the verifier. -/
  | verify (s : List Byte)
  /-- R150, decode and run one inbound byte. -/
  | dispatch (c : Channel) (b : Byte)
  /-- R180, one iteration of the Poller of a channel. -/
  | poll (c : Channel)
  /-- R190, one iteration of the SendScheduler. -/
  | wake
  /-- R192, the per-channel part of a wake. -/
  | send (c : Channel)
  /-- R200, one step of the IngestBridge. -/
  | ingest
  deriving DecidableEq, Repr

/-- The rows the dispatcher of one channel chooses from (R82, R83, R150): an `Instr` without its channel. -/
inductive Command where
  | syncver
  | nextread
  | nextreadSel (sel : Byte)
  | unitver
  | myst1
  | myst2
  | start
  | errstat
  | other (b : Byte)
  deriving DecidableEq, Repr

/-- The operation a command row stands for on channel `c`. -/
def Command.instr (c : Channel) : Command → Instr
  | .syncver => .syncver c
  | .nextread => .nextread c
  | .nextreadSel sel => .nextreadSel c sel
  | .unitver => .unitver c
  | .myst1 => .myst1 c
  | .myst2 => .myst2 c
  | .start => .start c
  | .errstat => .errstat c
  | .other b => .other c b

/-- One step of an execution (R67): a step of one of the four agents (R12), of the environment, or the reset input
(R250). -/
inductive Event where
  /-- The client appends a byte to `rxq[c]` (R52). -/
  | rx (c : Channel) (b : Byte)
  /-- The ingest source makes a frame ready (R51). -/
  | offer (f : List Byte)
  /-- The reset input is asserted (R250). -/
  | reset
  /-- `POLL[c]` takes a step (R181). -/
  | poll (c : Channel)
  /-- `SCHED` takes a step (R191). -/
  | wake
  /-- `INGEST` takes a step (R200). -/
  | ingest
  deriving DecidableEq, Repr, Inhabited

end Sys2Proof
end

