-- ==== Sys2Proof/Config.lean ====
section
/-!
DEFINITION. The parameters of the block that are no literals of the source: the command ROM (R6) with its well-formedness
(R7), the switches (R8), and the model's free values. The literals (R5) are the record `fixedParams` in Word.lean, where
the word types need them.
-/

namespace Sys2Proof

/-! ## R6, R7: the command ROM. -/

/-- The constants of the command ROM (R6), not yet checked. -/
structure RomData where
  cmdSyncver : Byte
  cmdNextread : Byte
  cmdUnitver : Byte
  cmdMyst1 : Byte
  cmdMyst2 : Byte
  cmdStart : Byte
  syncVer : Vector Byte Param.verLen
  unitVer : Vector Byte Param.verLen
  sideR : Byte
  sideL : Byte
  unitSumR : Byte
  unitSumL : Byte
  /-- `SEL[k]`. -/
  sel : Vector Byte Param.nCal
  /-- `CAL[k]`: a calibration table is an opaque byte string of a length the source does not give (R88). -/
  cal : Vector (List Byte) Param.nCal
  payMyst1 : Vector Byte Param.shortLen
  payMyst2 : Vector Byte Param.shortLen
  payStart : Vector Byte Param.shortLen
  deriving DecidableEq, Repr, Inhabited

/-- The seven command codes (R7). -/
def RomData.codes (d : RomData) : List Byte :=
  [d.cmdSyncver, d.cmdNextread, d.cmdUnitver, d.cmdMyst1, d.cmdMyst2, d.cmdStart, Param.cmdErrstat]

/-- The three selector values. -/
def RomData.sels (d : RomData) : List Byte :=
  d.sel.toList

/-- R7: codes pairwise distinct, selectors pairwise distinct, the side bytes differ, the mystery payloads differ. -/
def RomData.wf (d : RomData) : Bool :=
  decide (d.codes.Nodup ∧ d.sels.Nodup ∧ d.sideR ≠ d.sideL ∧ d.payMyst1 ≠ d.payMyst2)

/-- A command ROM: constants that meet R7. An ill-formed ROM is no value of this type, so no state holds one. -/
structure Rom extends RomData where
  wf : toRomData.wf = true
  deriving DecidableEq, Repr

/-! ## R8: the switches. -/

/-- The parameters of one machine. No step writes them (R33). -/
structure Config where
  rom : Rom
  /-- R203, OPEN. -/
  resetClearsPrev : Bool
  /-- R184, decided `false`. -/
  rxDrain : Bool
  /-- R208, decided `true`. -/
  ingestAtomic : Bool
  /-- R196, decided `true`. -/
  wakeAtomic : Bool
  deriving DecidableEq, Repr

/-! ## Free values -/

/-- FREE VALUE: the ROM's constants, which the source does not give (R6, D15). notes/assumptions/3.md. -/
opaque Config.freeRom : RomData

/-- FREE VALUE: `RESET_CLEARS_PREV`, which the source leaves open (R203, D10). notes/assumptions/4.md. -/
opaque Config.freeResetClearsPrev : Bool

/-- FREE VALUE: the packed bytes that SETKEY answers where its offset names no bit of `P[1..33]`, on which R123 states no
result. SETKEY is a pure function, so the value is one for each choice of its operands. notes/assumptions/11.md. -/
opaque Config.freeSetkey : Packed → Nat → Bool → Packed

/-- FREE VALUE: which step is taken next where no schedule says so (R67: any interleaving), one for each value of the
counter `State.tick`. notes/assumptions/2.md. -/
opaque Config.freeEvent : Nat → Event

/-- A ROM that meets R7 and stands for nothing: used only where `Config.freeRom` does not meet R7. -/
def Rom.placeholder : Rom where
  cmdSyncver := 0
  cmdNextread := 1
  cmdUnitver := 2
  cmdMyst1 := 3
  cmdMyst2 := 4
  cmdStart := 5
  syncVer := Vector.replicate _ 0
  unitVer := Vector.replicate _ 0
  sideR := 0
  sideL := 1
  unitSumR := 0
  unitSumL := 0
  sel := #v[0, 1, 2]
  cal := Vector.replicate _ []
  payMyst1 := Vector.replicate _ 0
  payMyst2 := Vector.replicate _ 1
  payStart := Vector.replicate _ 0
  wf := by decide

/-- The ROM of the machine after power-on: any ROM that meets R7 (R7: a ROM that breaks it is refused, never run). -/
def Config.someRom : Rom :=
  if h : Config.freeRom.wf = true then { toRomData := Config.freeRom, wf := h } else Rom.placeholder

/-- The machine's parameters after power-on: the decided switches of R8 and the open parameters left free. -/
def Config.decided : Config where
  rom := Config.someRom
  resetClearsPrev := Config.freeResetClearsPrev
  rxDrain := false
  ingestAtomic := true
  wakeAtomic := true

end Sys2Proof
end

