-- ==== Sys2Proof/WellFormed.lean ====
section
/-!
DEFINITION. When an operation is one the spec gives: the operand ranges of 40_codec.md R110 and R116, and for the
default rows of the opcode map that the operand belongs to no other row (30_encoding.md R82, R94). R7's
well-formedness of the ROM is `RomData.wf` in Config.lean.
-/

namespace Sys2Proof

/-- R82: the byte is none of the seven codes. -/
def Rom.isOther (rom : Rom) (b : Byte) : Bool := !rom.codes.contains b

/-- R94: the frame is neither the reset signal nor 30 bytes long. -/
def isMalformedFrame (f : List Byte) : Bool := f != [Param.resetByte] && f.length != Param.rawLen

/-- The operand checks of the spec. -/
def Instr.wf (rom : Rom) : Instr → Bool
  | .syncver _ => true
  | .nextread _ => true
  | .nextreadSel _ _ => true
  | .unitver _ => true
  | .myst1 _ => true
  | .myst2 _ => true
  | .start _ => true
  | .errstat _ => true
  | .other _ b => rom.isOther b
  | .ingReset => true
  | .ingBitmap _ => true
  | .ingMalformed f => isMalformedFrame f
  | .remap k => decide (k < Param.nKeys)
  | .unmap _ _ => true
  | .pack _ => true
  | .setkey _ _ _ => true
  | .checksum s n => decide (n ≤ s.length)
  | .buildframe _ _ => true
  | .verify _ => true
  | .dispatch _ _ => true
  | .poll _ => true
  | .wake => true
  | .send _ => true
  | .ingest => true

end Sys2Proof
end

