-- ==== Sys2Proof/Decode.lean ====
section
/-!
DEFINITION. The decoder and, after it, the encoder, written from the opcode map (30_encoding.md R81 to R85, R94, R95).
What is decoded is an inbound unit: bytes on a channel or a frame on the ingest port. The internal operations of the
table are selected by no inbound byte and so have no encoding.
-/

namespace Sys2Proof

/-- Where an inbound unit arrives: the receive queue of a channel, or the ingest port (R50). -/
inductive Port where
  | rx (c : Channel)
  | ing
  deriving DecidableEq, Repr

/-- An inbound unit and the one bit of state its decoding depends on: whether the dispatcher of the channel waits for a
selector (R71, R83). -/
structure InboundUnit where
  port : Port
  selPending : Bool
  bytes : List Byte
  deriving DecidableEq, Repr

/-- Why an inbound unit decodes to nothing. -/
inductive DecodeError where
  /-- A channel with no byte in it holds no command (R81: a command is at least its opcode byte). -/
  | noByte
  deriving DecidableEq, Repr

/-! ## Commands -/

/-- R82: the opcode map, by exact match on all 8 bits. The seven codes are pairwise distinct (R7), so the order of the
tests does not matter (R150); the one code that is a literal is tested first. -/
def decodeOpcode (rom : Rom) (b : Byte) : Command :=
  if b = Param.cmdErrstat then .errstat
  else if b = rom.cmdSyncver then .syncver
  else if b = rom.cmdNextread then .nextread
  else if b = rom.cmdUnitver then .unitver
  else if b = rom.cmdMyst1 then .myst1
  else if b = rom.cmdMyst2 then .myst2
  else if b = rom.cmdStart then .start
  else .other b

/-- R83: while a selector is awaited every byte is one, whatever its value; otherwise the byte is an opcode. -/
def decodeByte (rom : Rom) (selPending : Bool) (b : Byte) : Command :=
  if selPending then .nextreadSel b else decodeOpcode rom b

/-! ## Ingest frames -/

/-- The three classes of ingest frame (R94). -/
inductive IngestClass where
  | reset
  | bitmap (f : RawFrame)
  | malformed (f : List Byte)
  deriving DecidableEq, Repr

/-- R94: classification by length, and for length 1 by the byte. -/
def classifyFrame (f : List Byte) : IngestClass :=
  if f = [Param.resetByte] then .reset
  else if h : f.length = Param.rawLen then .bitmap ⟨f.toArray, by simpa using h⟩
  else .malformed f

/-- The operation an ingest class stands for. -/
def IngestClass.instr : IngestClass → Instr
  | .reset => .ingReset
  | .bitmap f => .ingBitmap f
  | .malformed f => .ingMalformed f

/-! ## Decode and encode -/

/-- The operation an inbound unit stands for, and the bytes left after it: the rest of the queue on a channel, nothing on
the ingest port, whose frames are taken whole (R61). -/
def decode (rom : Rom) (u : InboundUnit) : Except DecodeError (Instr × List Byte) :=
  match u.port with
  | .ing => .ok ((classifyFrame u.bytes).instr, [])
  | .rx c =>
    match u.bytes with
    | [] => .error .noByte
    | b :: rest => .ok ((decodeByte rom u.selPending b).instr c, rest)

/-- The inbound unit of an operation (R81, R82, R85, R94, R95); `none` for an internal one. -/
def encode (rom : Rom) : Instr → Option InboundUnit
  | .syncver c => some ⟨.rx c, false, [rom.cmdSyncver]⟩
  | .nextread c => some ⟨.rx c, false, [rom.cmdNextread]⟩
  | .nextreadSel c sel => some ⟨.rx c, true, [sel]⟩
  | .unitver c => some ⟨.rx c, false, [rom.cmdUnitver]⟩
  | .myst1 c => some ⟨.rx c, false, [rom.cmdMyst1]⟩
  | .myst2 c => some ⟨.rx c, false, [rom.cmdMyst2]⟩
  | .start c => some ⟨.rx c, false, [rom.cmdStart]⟩
  | .errstat c => some ⟨.rx c, false, [Param.cmdErrstat]⟩
  | .other c b => some ⟨.rx c, false, [b]⟩
  | .ingReset => some ⟨.ing, false, [Param.resetByte]⟩
  | .ingBitmap f => some ⟨.ing, false, f.toList⟩
  | .ingMalformed f => some ⟨.ing, false, f⟩
  | .remap _ => none
  | .unmap _ _ => none
  | .pack _ => none
  | .setkey _ _ _ => none
  | .checksum _ _ => none
  | .buildframe _ _ => none
  | .verify _ => none
  | .dispatch _ _ => none
  | .poll _ => none
  | .wake => none
  | .send _ => none
  | .ingest => none

/-! ## Words of the opcode table -/

/-- The first `n` bytes of a word, least significant first: the order in which the table numbers a row's bits. -/
def tableBytes (w : Nat) : Nat → List Byte
  | 0 => []
  | n + 1 => BitVec.ofNat 8 w :: tableBytes (w / 256) n

/-- The inbound unit that a word of the opcode table stands for (DESIGN CHOICE, notes/assumptions/12.md: the table does
not say on which port a row's bits arrive). No byte is the empty ingest frame; one byte is the reset frame if it is 71,
else a byte on channel `R`; two bytes are a `CMD2` on channel `R`; more are a 30-byte ingest frame. -/
def tableUnit (nbits w : Nat) : InboundUnit :=
  let n := (nbits + 7) / 8
  if n = 0 then ⟨.ing, false, []⟩
  else if n = 1 then
    let b := BitVec.ofNat 8 w
    if b = Param.resetByte then ⟨.ing, false, [b]⟩ else ⟨.rx .R, false, [b]⟩
  else if n = 2 then ⟨.rx .R, false, tableBytes w 2⟩
  else ⟨.ing, false, tableBytes w Param.rawLen⟩

/-- What the decoder reads from a word of the opcode table. -/
def decodeTableWord (nbits w : Nat) : Option Instr :=
  match decode Config.someRom (tableUnit nbits w) with
  | .ok (i, _) => some i
  | .error _ => none

end Sys2Proof
end

