-- ==== Sys2Proof/Machine/State.lean ====
section
/-!
DEFINITION. The whole state of the block (10_state.md R20), its reset value (R39), and the reasons a meaning can stop.
-/

namespace Sys2Proof.Machine

/-- The levels of the logging sink (R32, R237). -/
inductive Level where
  | info
  | warn
  | error
  | fatal
  deriving DecidableEq, Repr

/-- The named conditions (60_exceptions.md R221). -/
inductive Cause where
  | malformedIngest
  | errstat
  | unknownCmd
  | unknownSel
  | openFail
  deriving DecidableEq, Repr

/-- One record of the log (R32). -/
structure LogRecord where
  level : Level
  cause : Cause
  deriving DecidableEq, Repr

/-- The state of one channel (R20). -/
structure ChannelState where
  /-- R25, ChannelState's `initialized`. -/
  init : Bool
  /-- R26, the frame counter, 0..127. -/
  ctr : Counter
  /-- R27, the dispatcher waits for a selector byte. -/
  selPending : Bool
  /-- R30, unread inbound bytes, oldest first. -/
  rxq : List Byte
  /-- R31, every byte written to the channel since reset, oldest first. -/
  tx : List Byte
  deriving DecidableEq, Repr

/-- The four answers of the verifier (R119). -/
structure Verdict where
  lenOk : Bool
  hdrOk : Bool
  sumOk : Bool
  layoutOk : Bool
  deriving DecidableEq, Repr

/-- The value on the output of the combinational codec (40_codec.md). -/
inductive CodecResult where
  /-- No codec operation has been run. -/
  | nothing
  | remap (c : Channel) (off : Nat)
  | unmap (k : Option Nat)
  | packed (p : Packed)
  | checksum (b : Byte)
  | frame (bytes : List Byte) (next : Counter)
  | verdict (v : Verdict)
  deriving DecidableEq, Repr

/-- How far `SCHED` is in a wake that is split in three steps (R196, `WAKE_ATOMIC = false`). -/
inductive WakePhase where
  /-- No wake is in progress. -/
  | idle
  /-- `change` is cleared, `SEND(R)` comes next. -/
  | sendR
  /-- `SEND(R)` is done, `SEND(L)` comes next. -/
  | sendL
  deriving DecidableEq, Repr

/-- How far `INGEST` is in a bitmap frame that is applied bit by bit (R208, `INGEST_ATOMIC = false`). -/
structure IngestWork where
  /-- The frame taken from the port. -/
  frame : RawFrame
  /-- The changed keys not yet written, in the order of R202's loop. -/
  todo : List Nat
  /-- Whether the frame differs from `prev` (R202's `changed`). -/
  changed : Bool
  deriving DecidableEq, Repr

/-- The state. The fields down to `log` are the spec's own (R20, with one `ChannelState` per channel); `cfg` holds the
parameters of R6 and R8, which no step writes; the fields after `log` are the model's (INVENTORY.md, State). -/
structure State where
  /-- The machine's parameters (R33). -/
  cfg : Config
  /-- R21, BitMapStore. -/
  keys : Keys
  /-- R22, the raw frame most recently accepted. -/
  prev : RawFrame
  /-- R28, the touch-change signal. -/
  change : Bool
  /-- R29, the transmit path is started. -/
  schedStarted : Bool
  /-- Channel `R`. -/
  chR : ChannelState
  /-- Channel `L`. -/
  chL : ChannelState
  /-- R32, the log, oldest record first. -/
  log : List LogRecord
  /-- MODEL'S OWN: frames the ingest source has ready and `INGEST` has not taken, oldest first (R51). -/
  ing : List (List Byte)
  /-- MODEL'S OWN: progress of a split bitmap frame (R208). -/
  ingWork : Option IngestWork
  /-- MODEL'S OWN: progress of a split wake (R196). -/
  wakePhase : WakePhase
  /-- MODEL'S OWN: the output of the combinational codec. No step of an agent reads or writes it. -/
  result : CodecResult
  /-- MODEL'S OWN: the events of the execution that are already settled, soonest first (R67). -/
  agenda : List Event
  /-- MODEL'S OWN: how many free events have been taken (`Config.freeEvent`). -/
  tick : Nat
  deriving DecidableEq, Repr

/-- Reasons the machine stops. No step of the block stops it (R220); the one fatal condition of the source stands outside
the block, at start-up. -/
inductive Fault where
  /-- Raised by `State.powerOn` when a physical channel could not be opened: E_OPEN_FAIL (R226, R258). Safe: the block
  does not start. No instruction and no step raises it. -/
  | openFail
  deriving DecidableEq, Repr

/-- Reasons an operation is refused. -/
inductive Refusal where
  /-- Raised by an arm of `exec` whose instruction has no meaning yet. Safe: the machine stops. No arm raises it now. -/
  | notModelled (mnemonic : String)
  /-- Raised by `execRemap` on a key index outside 0..239: "a model refuses it" (R110). Safe: nothing is concluded. -/
  | keyOutOfRange
  /-- Raised by `execChecksum` where `n > len(s)`: "a model refuses it" (R116). Safe: nothing is concluded. -/
  | checksumTooLong
  /-- Raised by `State.powerOn` on a ROM that breaks R7: "a model refuses a ROM that breaks any of these". Safe. -/
  | illFormedRom
  deriving DecidableEq, Repr

/-- A channel after reset (R39). -/
def ChannelState.reset : ChannelState where
  init := false
  ctr := 0
  selPending := false
  rxq := []
  tx := []

/-- The block with parameters `cfg` right after reset (R39). -/
def State.resetWith (cfg : Config) : State where
  cfg := cfg
  keys := 0
  prev := Vector.replicate _ 0
  change := false
  schedStarted := false
  chR := ChannelState.reset
  chL := ChannelState.reset
  log := []
  ing := []
  ingWork := none
  wakePhase := .idle
  result := .nothing
  agenda := []
  tick := 0

/-- The machine right after reset (R39), with the decided switches and the open parameters free. -/
def State.reset : State := State.resetWith Config.decided

end Sys2Proof.Machine
end

