-- ==== Sys2Proof/Machine/Ops.lean ====
section
/-!
DEFINITION. The shared operations over the state: channel access, the pseudocode primitives of 00_scope.md R11 (`RxEmpty`,
`RxPop`, `TxWrite`, `Log`, `IngestNext`), the environment's two actions (20_memory.md R67), the reset input
(70_reset_and_hazards.md R250), power-on (R7, R226), and what stands in for taking an exception (60_exceptions.md R231).
There is no return from one (R232).
-/

namespace Sys2Proof.Machine

/-- The state of channel `c`. -/
def State.ch (s : State) : Channel → ChannelState
  | .R => s.chR
  | .L => s.chL

/-- Change channel `c` and nothing else. -/
def State.modifyCh (s : State) (c : Channel) (f : ChannelState → ChannelState) : State :=
  match c with
  | .R => { s with chR := f s.chR }
  | .L => { s with chL := f s.chL }

/-! ## Streams -/

/-- `RxEmpty(c)` (R11, R72): no side effect. -/
def State.rxEmpty (s : State) (c : Channel) : Bool := (s.ch c).rxq.isEmpty

/-- Replace the receive queue of channel `c`. -/
def State.setRxq (s : State) (c : Channel) (q : List Byte) : State :=
  s.modifyCh c fun ch => { ch with rxq := q }

/-- `RxPop(c)` (R11, R72): remove and return the oldest byte; `none` where the queue is empty. -/
def State.rxPop (s : State) (c : Channel) : Option (Byte × State) :=
  match (s.ch c).rxq with
  | [] => none
  | b :: q => some (b, s.setRxq c q)

/-- `TxWrite(c, bytes)` (R11, R54, R55, R65): append, contiguously and in index order; it never fails. -/
def State.txWrite (s : State) (c : Channel) (bytes : List Byte) : State :=
  s.modifyCh c fun ch => { ch with tx := ch.tx ++ bytes }

/-- `Log(level, cause)` (R11, R57): append one record. -/
def State.logWrite (s : State) (level : Level) (cause : Cause) : State :=
  { s with log := s.log ++ [⟨level, cause⟩] }

/-- `IngestNext()` (R11, R51): the oldest frame that is ready; `none` where there is none. -/
def State.ingestNext (s : State) : Option (List Byte × State) :=
  match s.ing with
  | [] => none
  | f :: rest => some (f, { s with ing := rest })

/-! ## One-bit and counter state -/

/-- Write `init[c]` (R25). -/
def State.setInit (s : State) (c : Channel) (v : Bool) : State :=
  s.modifyCh c fun ch => { ch with init := v }

/-- Write `sel_pending[c]` (R27). -/
def State.setSelPending (s : State) (c : Channel) (v : Bool) : State :=
  s.modifyCh c fun ch => { ch with selPending := v }

/-- Write `ctr[c]` (R26). -/
def State.setCtr (s : State) (c : Channel) (n : Counter) : State :=
  s.modifyCh c fun ch => { ch with ctr := n }

/-! ## Conditions -/

/-- A condition raised inside a step, with the channel it belongs to (R221). -/
inductive Condition where
  | malformedIngest
  | errstat (c : Channel)
  | unknownCmd (c : Channel)
  | unknownSel (c : Channel)
  deriving DecidableEq, Repr

/-- R231: what each condition changes, in full. Nothing is saved and control goes nowhere. -/
def State.takeCondition (s : State) : Condition → State
  | .malformedIngest => s.logWrite .warn .malformedIngest
  | .errstat c => (s.setInit c false).logWrite .warn .errstat
  | .unknownCmd _ => s
  | .unknownSel c => s.setSelPending c false

/-! ## Environment, reset, power-on -/

/-- The client appends a byte at the tail of `rxq[c]` (R52, R53). -/
def State.rxAppend (s : State) (c : Channel) (b : Byte) : State :=
  s.modifyCh c fun ch => { ch with rxq := ch.rxq ++ [b] }

/-- The ingest source makes a frame ready behind those already waiting (R51). -/
def State.offerFrame (s : State) (f : List Byte) : State :=
  { s with ing := s.ing ++ [f] }

/-- The reset input (R250): every piece of state of R20 takes its reset value and anything in progress is discarded; the
parameters stay (R252). What stands outside the block stays too: the frames the ingest source holds ready and the coming
events (notes/assumptions/8.md). -/
def State.hardReset (s : State) : State :=
  { State.resetWith s.cfg with ing := s.ing, agenda := s.agenda, tick := s.tick }

/-- Power-on: the block starts only with both channels open (R226, R258) and a ROM that meets R7. DESIGN CHOICE
(notes/assumptions/10.md): the spec gives the two checks no order; here the channels are tested first, so that with a channel
not open and an ill-formed ROM the answer is the fault `openFail`. -/
def State.powerOn (d : RomData) (resetClearsPrev rxDrain ingestAtomic wakeAtomic openR openL : Bool) :
    Host.Outcome State Fault Refusal :=
  if !(openR && openL) then .fault .openFail
  else if h : d.wf = true then
    .next (State.resetWith
      { rom := { toRomData := d, wf := h }
        resetClearsPrev := resetClearsPrev
        rxDrain := rxDrain
        ingestAtomic := ingestAtomic
        wakeAtomic := wakeAtomic })
  else .refused .illFormedRom

end Sys2Proof.Machine
end

