-- ==== Sys2Proof/Machine/Operands.lean ====
section
/-!
DEFINITION. Operand forms: the bit order inside bytes (20_memory.md R59, R60), the keys of a channel (R91, R115), the
selector of next-read (R85), and the constants of the ROM that depend on the channel (R6).
-/

namespace Sys2Proof.Machine

/-! ## Bit order. The one place where it is decided (D2). -/

/-- R60: the byte of a ChannelFrame that a packed offset names. -/
def byteOf (off : Nat) : Nat := off / 8

/-- R60: the bit of that byte, counted from the least significant. -/
def bitOf (off : Nat) : Nat := off % 8

/-- R59: key `k` of a raw frame is bit `k mod 8` of byte `k div 8`. -/
def keyBit (f : RawFrame) (k : Nat) : Bool := (f.getD (k / 8) 0).getLsbD (k % 8)

/-- Read `keys[k]` (R21). -/
def readKey (keys : Keys) (k : Nat) : Bool := keys.getLsbD k

/-- Write `keys[k] <- v` (R202). -/
def writeKey (keys : Keys) (k : Nat) (v : Bool) : Keys :=
  if v then keys ||| (BitVec.ofNat _ 1 <<< k) else keys &&& ~~~(BitVec.ofNat _ 1 <<< k)

/-- Write one bit of a byte (R123). -/
def writeBit (b : Byte) (j : Nat) (v : Bool) : Byte :=
  if v then b ||| (1#8 <<< j) else b &&& ~~~(1#8 <<< j)

/-- Read `P[b]`, for `b` in 1..33 (R115). -/
def packedByte (p : Packed) (b : Nat) : Byte := p.getD (b - 1) 0

/-- Write `P[b]`, for `b` in 1..33 (R115). -/
def writePackedByte (p : Packed) (b : Nat) (v : Byte) : Packed := p.setIfInBounds (b - 1) v

/-! ## Keys of a channel -/

/-- R91: the first key of a channel. -/
def baseKey : Channel → Nat
  | .R => 0
  | .L => Param.keysPerCh

/-- R115: the keys of a channel, in ascending order. -/
def channelKeys (c : Channel) : List Nat := (List.range Param.keysPerCh).map (baseKey c + ·)

/-! ## Operands of the dispatcher -/

/-- R85: the calibration table a selector byte chooses, `none` for an unrecognised selector. -/
def selectTable (rom : Rom) (sel : Byte) : Option (List Byte) :=
  (List.finRange Param.nCal).findSome? fun k => if sel = rom.sel[k] then some rom.cal[k] else none

/-- `SIDE[c]` (R6). -/
def sideByte (rom : Rom) : Channel → Byte
  | .R => rom.sideR
  | .L => rom.sideL

/-- `UNIT_SUM[c]` (R6). -/
def unitSum (rom : Rom) : Channel → Byte
  | .R => rom.unitSumR
  | .L => rom.unitSumL

/-- `rep(s, n)` (R10). -/
def repeatBytes (s : List Byte) : Nat → List Byte
  | 0 => []
  | n + 1 => s ++ repeatBytes s n

end Sys2Proof.Machine
end

