-- ==== Sys2Proof/Machine/Flags.lean ====
section
/-!
DEFINITION. Computed one-bit results: the change detector (45_ingest_bridge.md R202, R205) and the operating mode of a
channel (42_channel_protocol.md R160, 60_exceptions.md R233). The block has no arithmetic condition codes (R34).
-/

namespace Sys2Proof.Machine

/-- R202: bit `k` of `f ^ prev`. -/
def keyChanged (prev f : RawFrame) (k : Nat) : Bool :=
  (f.getD (k / 8) 0 ^^^ prev.getD (k / 8) 0).getLsbD (k % 8)

/-- R202: the keys whose bit changed, in the order of the loop over `i` and `j`, which is that of `k = i*8 + j`. -/
def changedKeys (prev f : RawFrame) : List Nat :=
  (List.range Param.nKeys).filter (keyChanged prev f)

/-- R202's `changed`, which decides whether the change signal is raised (R205). -/
def anyChanged (prev f : RawFrame) : Bool := !(changedKeys prev f).isEmpty

/-- The states of the dispatcher of a channel (R160). -/
inductive Mode where
  /-- `U`: Uninitialized. -/
  | uninitialized
  /-- `W`: Uninitialized and waiting for a selector. -/
  | waiting
  /-- `S`: Scanning. -/
  | scanning
  /-- `(1, 1)`, which no run reaches (R35). -/
  | unreachable
  deriving DecidableEq, Repr

/-- R160: the mode is the pair `(init[c], sel_pending[c])`. -/
def ChannelState.mode (ch : ChannelState) : Mode :=
  match ch.init, ch.selPending with
  | false, false => .uninitialized
  | false, true => .waiting
  | true, false => .scanning
  | true, true => .unreachable

end Sys2Proof.Machine
end

