-- ==== Sys2Proof/Machine/Ingest.lean ====
section
/-!
DEFINITION. The IngestBridge (45_ingest_bridge.md): the reset signal, the bitmap frame, the malformed frame, and the
agent's step, atomic or bit by bit (R208).
-/

namespace Sys2Proof.Machine

/-- R202's inner assignment `keys[k] <- f[i][j]`, for each key of the list. -/
def writeKeys (f : RawFrame) (ks : List Nat) (keys : Keys) : Keys :=
  ks.foldl (fun acc k => writeKey acc k (keyBit f k)) keys

/-- R201: the bitmap is cleared, and `prev` with it under `RESET_CLEARS_PREV` (R203); `change` is not set (R209). -/
def runIngReset (s : State) : State :=
  { s with
    keys := 0
    prev := if s.cfg.resetClearsPrev then Vector.replicate _ 0 else s.prev }

/-- R202: only the changed bits are written; the change signal is raised once, if a bit changed (R205). -/
def runIngBitmap (f : RawFrame) (s : State) : State :=
  { s with
    keys := writeKeys f (changedKeys s.prev f) s.keys
    prev := f
    change := s.change || anyChanged s.prev f }

/-- R204: the condition E_MALFORMED_INGEST (R222). -/
def runIngMalformed (_f : List Byte) (s : State) : State := s.takeCondition .malformedIngest

/-- R208, `INGEST_ATOMIC = false`: a bitmap frame is taken, and its changed bits stand to be written. -/
def beginBitmap (f : RawFrame) (s : State) : State :=
  { s with ingWork := some ⟨f, changedKeys s.prev f, anyChanged s.prev f⟩ }

/-- R208, `INGEST_ATOMIC = false`: one bit write; after the last, `prev` and the change signal. -/
def continueBitmap (w : IngestWork) (s : State) : State :=
  match w.todo with
  | k :: ks =>
    { s with keys := writeKey s.keys k (keyBit w.frame k), ingWork := some { w with todo := ks } }
  | [] => { s with prev := w.frame, change := s.change || w.changed, ingWork := none }

/-- R200: take the next frame and classify it (R94). With no frame ready the agent idles. A bitmap frame in progress is
finished first. -/
def runIngest (s : State) : State :=
  match s.ingWork with
  | some w => continueBitmap w s
  | none =>
    match s.ingestNext with
    | none => s
    | some (f, s') =>
      match classifyFrame f with
      | .reset => runIngReset s'
      | .bitmap g => if s'.cfg.ingestAtomic then runIngBitmap g s' else beginBitmap g s'
      | .malformed g => runIngMalformed g s'

/-- ING.RESET (R201). -/
def execIngReset (s : State) : Host.Outcome State Fault Refusal := .next (runIngReset s)

/-- ING.BITMAP (R202). -/
def execIngBitmap (f : RawFrame) (s : State) : Host.Outcome State Fault Refusal := .next (runIngBitmap f s)

/-- ING.MALFORMED (R204). -/
def execIngMalformed (f : List Byte) (s : State) : Host.Outcome State Fault Refusal := .next (runIngMalformed f s)

/-- INGEST (R200). -/
def execIngest (s : State) : Host.Outcome State Fault Refusal := .next (runIngest s)

end Sys2Proof.Machine
end

