-- ==== Sys2Proof/Machine/Codec.lean ====
section
/-!
DEFINITION. PacketCodec (40_codec.md): the pure functions, then the meanings of the rows REMAP, UNMAP, PACK, SETKEY,
CHECKSUM, BUILDFRAME and VERIFY. A meaning puts the function's value on the codec's output, `State.result`, and writes
nothing else: none of these operations writes a flag, a log record or any state of the block (R121).
-/

namespace Sys2Proof.Machine

/-! ## Functions -/

/-- R110: the source's procedure, on the 1-based index `a = k + 1`. -/
def remap (k : Nat) : Channel × Nat :=
  let a := k + 1
  let ci : Channel × Nat := if a ≤ Param.keysPerCh then (.R, a) else (.L, a - Param.keysPerCh)
  (ci.1, ci.2 + (ci.2 - 1) / Param.group * Param.fill + Param.offset0)

/-- R113: the inverse; `none` on the header, on filler and beyond the keys. -/
def unmap (c : Channel) (off : Nat) : Option Nat :=
  if off < Param.firstOffset ∨ Param.lastOffset < off ∨ Param.group ≤ off % 8 then none
  else some (Param.group * ((off - Param.firstOffset) / 8) + off % 8 + baseKey c)

/-- R123: set or clear the bit of `P` that a packed offset names. -/
def setPackedBit (p : Packed) (off : Nat) (v : Bool) : Packed :=
  writePackedByte p (byteOf off) (writeBit (packedByte p (byteOf off)) (bitOf off) v)

/-- R123 on any offset. The bits of `P[1..33]` have the offsets 8..271 (R142); R123 gives no domain and states no result for
another offset, so the bytes are a free value there (DESIGN CHOICE, notes/assumptions/11.md). -/
def setkey (p : Packed) (off : Nat) (v : Bool) : Packed :=
  if Param.firstOffset ≤ off ∧ off < 8 * Param.ctrPos then setPackedBit p off v else Config.freeSetkey p off v

/-- R115: the serializer. -/
def pack (keys : Keys) (c : Channel) : Packed :=
  (channelKeys c).foldl (fun p k => if readKey keys k then setPackedBit p (remap k).2 true else p)
    (Vector.replicate _ 0)

/-- R116: XOR-fold of the first `n` bytes. -/
def checksum (s : List Byte) (n : Nat) : Byte := (s.take n).foldl (· ^^^ ·) 0

/-- R117: the frame and the next counter value, which the frame carries. -/
def buildFrame (p : Packed) (n : Counter) : List Byte × Counter :=
  let n' := n + 1
  let body := Param.header :: (p.toList ++ [n'.setWidth 8])
  (body ++ [checksum body Param.sumPos], n')

/-- R119: the verifier. -/
def verify (s : List Byte) : Verdict :=
  if s.length ≠ Param.frameLen then ⟨false, false, false, false⟩
  else
    { lenOk := true
      hdrOk := s.getD 0 0 == Param.header
      sumOk := s.getD Param.sumPos 0 == checksum s Param.sumPos
      layoutOk := decide ((s.getD Param.ctrPos 0).toNat < Param.ctrMod) &&
        ((List.range Param.dataBytes).all fun t => s.getD (t + 1) 0 &&& Param.fillerMask == 0) &&
        ((List.range (Param.packedLen - Param.dataBytes)).all fun t =>
          s.getD (t + (Param.dataBytes + 1)) 0 == 0) }

/-- R119's `frame_ok`. -/
def Verdict.frameOk (v : Verdict) : Bool := v.lenOk && v.hdrOk && v.sumOk && v.layoutOk

/-! ## Meanings -/

/-- REMAP (R110). An index outside 0..239 is outside the domain: "a model refuses it". -/
def execRemap (k : Nat) (s : State) : Host.Outcome State Fault Refusal :=
  if k < Param.nKeys then .next { s with result := .remap (remap k).1 (remap k).2 } else .refused .keyOutOfRange

/-- UNMAP (R113). -/
def execUnmap (c : Channel) (off : Nat) (s : State) : Host.Outcome State Fault Refusal :=
  .next { s with result := .unmap (unmap c off) }

/-- PACK (R115), which reads `keys`. -/
def execPack (c : Channel) (s : State) : Host.Outcome State Fault Refusal :=
  .next { s with result := .packed (pack s.keys c) }

/-- SETKEY (R123), for every operand. -/
def execSetkey (p : Packed) (off : Nat) (v : Bool) (s : State) : Host.Outcome State Fault Refusal :=
  .next { s with result := .packed (setkey p off v) }

/-- CHECKSUM (R116). A length beyond the string is outside the domain: "a model refuses it". -/
def execChecksum (bytes : List Byte) (n : Nat) (s : State) : Host.Outcome State Fault Refusal :=
  if n ≤ bytes.length then .next { s with result := .checksum (checksum bytes n) } else .refused .checksumTooLong

/-- BUILDFRAME (R117). It stores no counter: the caller owns `ctr[c]` (R265). -/
def execBuildframe (p : Packed) (n : Counter) (s : State) : Host.Outcome State Fault Refusal :=
  .next { s with result := .frame (buildFrame p n).1 (buildFrame p n).2 }

/-- VERIFY (R119). -/
def execVerify (bytes : List Byte) (s : State) : Host.Outcome State Fault Refusal :=
  .next { s with result := .verdict (verify bytes) }

end Sys2Proof.Machine
end

