-- ==== Sys2Proof/Machine/Protocol.lean ====
section
/-!
DEFINITION. ChannelProtocol (42_channel_protocol.md): the response formats (30_encoding.md R86 to R89), one state change
per command, DISPATCH, and the meanings of the nine command rows and of DISPATCH. Every one of them answers a next state:
no command byte stops the block (R96, R220).
-/

namespace Sys2Proof.Machine

/-! ## Responses -/

/-- `RSP.SYNCVER` (R86), 8 bytes. -/
def rspSyncver (rom : Rom) : List Byte := [rom.cmdSyncver] ++ rom.syncVer.toList ++ [Param.syncTrail]

/-- `RSP.UNITVER` (R87), 45 bytes. -/
def rspUnitver (rom : Rom) (c : Channel) : List Byte :=
  [rom.cmdUnitver] ++ rom.syncVer.toList ++ [sideByte rom c] ++ repeatBytes rom.unitVer.toList Param.unitReps
    ++ [unitSum rom c]

/-- `RSP.NEXTREAD` (R88): the table and its checksum. -/
def rspNextread (table : List Byte) : List Byte := table ++ [checksum table table.length]

/-! ## Commands -/

/-- The shape that five commands share: `init[c] <- v`, then the response (R151, R154 to R157). -/
def answer (c : Channel) (v : Bool) (response : List Byte) (s : State) : State :=
  (s.setInit c v).txWrite c response

/-- R151. -/
def runSyncver (c : Channel) (s : State) : State := answer c false (rspSyncver s.cfg.rom) s

/-- R152: nothing is sent in this phase. -/
def runNextread (c : Channel) (s : State) : State := (s.setInit c false).setSelPending c true

/-- R153: an unrecognised selector is the condition E_UNKNOWN_SEL (R225). -/
def runNextreadSel (c : Channel) (sel : Byte) (s : State) : State :=
  match selectTable s.cfg.rom sel with
  | none => s.takeCondition (.unknownSel c)
  | some table => (s.setSelPending c false).txWrite c (rspNextread table)

/-- R154. -/
def runUnitver (c : Channel) (s : State) : State := answer c false (rspUnitver s.cfg.rom c) s

/-- R155. -/
def runMyst1 (c : Channel) (s : State) : State := answer c false s.cfg.rom.payMyst1.toList s

/-- R156. -/
def runMyst2 (c : Channel) (s : State) : State := answer c false s.cfg.rom.payMyst2.toList s

/-- R157: the acknowledgment, and the transmit path starts. -/
def runStart (c : Channel) (s : State) : State :=
  { answer c true s.cfg.rom.payStart.toList s with schedStarted := true }

/-- R158: the condition E_ERRSTAT (R223). -/
def runErrstat (c : Channel) (s : State) : State := s.takeCondition (.errstat c)

/-- R159: the condition E_UNKNOWN_CMD (R224), which has no effect. -/
def runOther (c : Channel) (_b : Byte) (s : State) : State := s.takeCondition (.unknownCmd c)

/-- The effect of a decoded command on channel `c`. -/
def runCommand (c : Channel) (cmd : Command) (s : State) : State :=
  match cmd with
  | .syncver => runSyncver c s
  | .nextread => runNextread c s
  | .nextreadSel sel => runNextreadSel c sel s
  | .unitver => runUnitver c s
  | .myst1 => runMyst1 c s
  | .myst2 => runMyst2 c s
  | .start => runStart c s
  | .errstat => runErrstat c s
  | .other b => runOther c b s

/-- `DISPATCH(c, b)` (R150): decode the byte under `sel_pending[c]` and run what it stands for. -/
def runDispatch (c : Channel) (b : Byte) (s : State) : State :=
  runCommand c (decodeByte s.cfg.rom (s.ch c).selPending b) s

/-! ## Meanings -/

/-- SYNCVER (R151). -/
def execSyncver (c : Channel) (s : State) : Host.Outcome State Fault Refusal := .next (runSyncver c s)

/-- NEXTREAD, command-byte phase (R152). -/
def execNextread (c : Channel) (s : State) : Host.Outcome State Fault Refusal := .next (runNextread c s)

/-- NEXTREAD_SEL (R153). -/
def execNextreadSel (c : Channel) (sel : Byte) (s : State) : Host.Outcome State Fault Refusal :=
  .next (runNextreadSel c sel s)

/-- UNITVER (R154). -/
def execUnitver (c : Channel) (s : State) : Host.Outcome State Fault Refusal := .next (runUnitver c s)

/-- MYST1 (R155). -/
def execMyst1 (c : Channel) (s : State) : Host.Outcome State Fault Refusal := .next (runMyst1 c s)

/-- MYST2 (R156). -/
def execMyst2 (c : Channel) (s : State) : Host.Outcome State Fault Refusal := .next (runMyst2 c s)

/-- START (R157). -/
def execStart (c : Channel) (s : State) : Host.Outcome State Fault Refusal := .next (runStart c s)

/-- ERRSTAT (R158). -/
def execErrstat (c : Channel) (s : State) : Host.Outcome State Fault Refusal := .next (runErrstat c s)

/-- OTHER (R159). -/
def execOther (c : Channel) (b : Byte) (s : State) : Host.Outcome State Fault Refusal := .next (runOther c b s)

/-- DISPATCH (R150). -/
def execDispatch (c : Channel) (b : Byte) (s : State) : Host.Outcome State Fault Refusal := .next (runDispatch c b s)

end Sys2Proof.Machine
end

