-- ==== Sys2Proof/Machine/Poller.lean ====
section
/-!
DEFINITION. The Poller (43_poller.md R180): one step takes at most one command, one byte or two for next-read.
-/

namespace Sys2Proof.Machine

/-- R180, the secondary byte: if one is waiting it is taken as the selector in the same step. -/
def takeSelector (c : Channel) (s : State) : State :=
  match s.rxPop c with
  | none => s
  | some (sel, s') => runDispatch c sel s'

/-- R180's last line (R184): with `RX_DRAIN`, a step that completed a command empties the queue. -/
def drain (c : Channel) (s : State) : State :=
  if s.cfg.rxDrain && !(s.ch c).selPending then s.setRxq c [] else s

/-- R180, `POLL[c]`. -/
def runPoll (c : Channel) (s : State) : State :=
  match s.rxPop c with
  | none => s
  | some (b, s') =>
    let s'' := runDispatch c b s'
    if !(s.ch c).selPending && (s''.ch c).selPending then drain c (takeSelector c s'') else drain c s''

/-- POLL (R180). -/
def execPoll (c : Channel) (s : State) : Host.Outcome State Fault Refusal := .next (runPoll c s)

end Sys2Proof.Machine
end

