-- ==== Sys2Proof/Machine/Scheduler.lean ====
section
/-!
DEFINITION. The SendScheduler (44_send_scheduler.md): SEND, gated by `init[c]`, and WAKE, enabled once `sched_started` is
set, atomic or in the three steps of R196.
-/

namespace Sys2Proof.Machine

/-- R192, `SEND(c)`: a channel that is not initialised is skipped silently. -/
def runSend (c : Channel) (s : State) : State :=
  if (s.ch c).init then
    let built := buildFrame (pack s.keys c) (s.ch c).ctr
    (s.setCtr c built.2).txWrite c built.1
  else s

/-- R190: the whole wake, channel `R` first (R194). -/
def runWholeWake (s : State) : State := runSend .L (runSend .R { s with change := false })

/-- R196, `WAKE_ATOMIC = false`: the next of the three steps of a wake. -/
def runWakePart (s : State) : State :=
  match s.wakePhase with
  | .idle => { s with change := false, wakePhase := .sendR }
  | .sendR => { runSend .R s with wakePhase := .sendL }
  | .sendL => { runSend .L s with wakePhase := .idle }

/-- R190, R191: before the first START there is no wake, and `SCHED` idles. -/
def runWake (s : State) : State :=
  if s.schedStarted then
    if s.cfg.wakeAtomic then runWholeWake s else runWakePart s
  else s

/-- WAKE (R190). -/
def execWake (s : State) : Host.Outcome State Fault Refusal := .next (runWake s)

/-- SEND (R192). -/
def execSend (c : Channel) (s : State) : Host.Outcome State Fault Refusal := .next (runSend c s)

end Sys2Proof.Machine
end

