-- ==== Sys2Proof/Machine/Dispatch.lean ====
section
/-!
DEFINITION. `exec`: the meaning of every operation of spec/opcode_table.json, one arm per constructor of `Instr`.
-/

namespace Sys2Proof.Machine

def exec (i : Instr) (s : State) : Host.Outcome State Fault Refusal :=
  match i with
  | .syncver c => Sys2Proof.Machine.execSyncver c s
  | .nextread c => Sys2Proof.Machine.execNextread c s
  | .nextreadSel c sel => Sys2Proof.Machine.execNextreadSel c sel s
  | .unitver c => Sys2Proof.Machine.execUnitver c s
  | .myst1 c => Sys2Proof.Machine.execMyst1 c s
  | .myst2 c => Sys2Proof.Machine.execMyst2 c s
  | .start c => Sys2Proof.Machine.execStart c s
  | .errstat c => Sys2Proof.Machine.execErrstat c s
  | .other c b => Sys2Proof.Machine.execOther c b s
  | .ingReset => Sys2Proof.Machine.execIngReset s
  | .ingBitmap f => Sys2Proof.Machine.execIngBitmap f s
  | .ingMalformed f => Sys2Proof.Machine.execIngMalformed f s
  | .remap k => Sys2Proof.Machine.execRemap k s
  | .unmap c off => Sys2Proof.Machine.execUnmap c off s
  | .pack c => Sys2Proof.Machine.execPack c s
  | .setkey p off v => Sys2Proof.Machine.execSetkey p off v s
  | .checksum bytes n => Sys2Proof.Machine.execChecksum bytes n s
  | .buildframe p n => Sys2Proof.Machine.execBuildframe p n s
  | .verify bytes => Sys2Proof.Machine.execVerify bytes s
  | .dispatch c b => Sys2Proof.Machine.execDispatch c b s
  | .poll c => Sys2Proof.Machine.execPoll c s
  | .wake => Sys2Proof.Machine.execWake s
  | .send c => Sys2Proof.Machine.execSend c s
  | .ingest => Sys2Proof.Machine.execIngest s

end Sys2Proof.Machine
end

