-- ==== Sys2Proof/Machine/Fetch.lean ====
section
/-!
DEFINITION. What stands in for fetching an instruction: choosing the next event (20_memory.md R67), the agent operation an
event runs, the environment's events, and how the unit a word stands for is put where the next step takes it.
-/

namespace Sys2Proof.Machine

/-- The next event of the execution and the state with it taken off: the settled one if there is one, else a free one
(R67: any interleaving is allowed). -/
def nextEvent (s : State) : Event × State :=
  match s.agenda with
  | e :: rest => (e, { s with agenda := rest })
  | [] => (Config.freeEvent s.tick, { s with tick := s.tick + 1 })

/-- The operation an agent's step runs (R12); `none` for the environment and the reset input. -/
def agentInstr : Event → Option Instr
  | .rx _ _ => none
  | .offer _ => none
  | .reset => none
  | .poll c => some (.poll c)
  | .wake => some .wake
  | .ingest => some .ingest

/-- The effect of an event that is no agent's step (R67, R250). -/
def environment (e : Event) (s : State) : State :=
  match e with
  | .rx c b => s.rxAppend c b
  | .offer f => s.offerFrame f
  | .reset => s.hardReset
  | .poll _ => s
  | .wake => s
  | .ingest => s

/-- Put an inbound unit where the very next step takes it: on a channel it becomes the receive queue, on the ingest port
the first frame, and the agent of that port steps next. -/
def placeUnit (u : InboundUnit) (s : State) : State :=
  match u.port with
  | .rx c =>
    { (s.modifyCh c fun ch => { ch with rxq := u.bytes, selPending := u.selPending }) with
      agenda := .poll c :: s.agenda }
  | .ing => { s with ing := u.bytes :: s.ing, ingWork := none, agenda := .ingest :: s.agenda }

end Sys2Proof.Machine
end

