-- ==== Sys2Proof/Machine/Step.lean ====
section
/-!
DEFINITION. One step of an execution (20_memory.md R67): the next event is taken; an agent's event runs that agent's
operation, any other event is the environment's or the reset input.
-/

namespace Sys2Proof.Machine

/-- One step. -/
def step (s : State) : Host.Outcome State Fault Refusal :=
  match agentInstr (nextEvent s).1 with
  | some i => exec i (nextEvent s).2
  | none => .next (environment (nextEvent s).1 (nextEvent s).2)

/-- `s` with the unit that a word of the opcode table stands for put where the next step takes it
(notes/assumptions/12.md). -/
def State.withFetchWord (s : State) (nbits w : Nat) : State := placeUnit (tableUnit nbits w) s

end Sys2Proof.Machine
end

