-- ==== Sys2Proof/Safety.lean ====
section
/-!
DEFINITION. The terms claims are made in: the invariants of a run (10_state.md R35, R36), what is observed of the block
(00_scope.md R13), and the answer of the verifier that stands for a valid frame.
-/

namespace Sys2Proof.Machine

/-- R35 (b) and (c) (R35 (a) holds by the type of `ctr`), with the model's own progress fields: a wake or a frame is in
progress only under the switch that splits it (R196, R208), and a wake only once the transmit path is started. -/
structure State.ModeInv (s : State) : Prop where
  scanningIsStarted : ∀ c, (s.ch c).init = true → s.schedStarted = true
  waitingIsUninitialized : ∀ c, (s.ch c).selPending = true → (s.ch c).init = false
  wakeIsWhole : s.cfg.wakeAtomic = true → s.wakePhase = .idle
  frameIsWhole : s.cfg.ingestAtomic = true → s.ingWork = none
  splitWakeIsStarted : s.wakePhase ≠ .idle → s.schedStarted = true

/-- R36: the bitmap equals the last accepted raw frame. -/
def State.BitmapAgrees (s : State) : Prop :=
  ∀ k, k < Param.nKeys → readKey s.keys k = keyBit s.prev k

/-- R36 between ingest frames; and in the middle of a split frame (R208), where the keys still to be written show the old
frame and all others the new one. -/
def State.BitmapInv (s : State) : Prop :=
  match s.ingWork with
  | none => s.BitmapAgrees
  | some w =>
    w.todo.Nodup ∧ (∀ k ∈ w.todo, k < Param.nKeys) ∧
      ∀ k, k < Param.nKeys → readKey s.keys k = if k ∈ w.todo then keyBit s.prev k else keyBit w.frame k

/-- The next step is `INGEST` taking the reset signal (R201). -/
def State.TakesResetSignal (s : State) : Prop :=
  (nextEvent s).1 = .ingest ∧ s.ingWork = none ∧ s.ing.head? = some [Param.resetByte]

/-- R13: what can be observed of the block from outside. -/
structure Observation where
  txR : List Byte
  txL : List Byte
  log : List LogRecord
  deriving DecidableEq, Repr

/-- R13. -/
def State.observe (s : State) : Observation := ⟨s.chR.tx, s.chL.tx, s.log⟩

/-- R120: the verdict on a frame the block built. -/
def Verdict.allTrue : Verdict := ⟨true, true, true, true⟩

/-- The ChannelFrame that `SEND(c)` writes from a bitmap and a counter value (R192). -/
def sentFrame (keys : Keys) (c : Channel) (n : Counter) : List Byte := (buildFrame (pack keys c) n).1

/-- The state with a given schedule of coming events. -/
def State.withAgenda (s : State) (es : List Event) : State := { s with agenda := es }

end Sys2Proof.Machine
end

