-- ==== Sys2Proof/Certificates/Slice0/Obligations.lean ====
section
/-!
DEFINITION. The statements for the provers, in the order of OBLIGATIONS.json. Each docstring names the rules of spec/ it
formalises and, where a clause rests on a decision of the spec or of this model, says so.
-/

open Sys2Proof Sys2Proof.Machine

/-! ## Encoding -/

/-- R81 to R85, R94, R95: every operation that an inbound unit selects is read back from its encoding, with every operand,
under every ROM. -/
def Obligations.DecodeOfEncodeGivesInstruction : Prop :=
  ∀ (rom : Rom) (i : Instr) (u : InboundUnit), i.wf rom = true → encode rom i = some u → decode rom u = .ok (i, [])

/-- R82, R83, R94: every inbound unit has one meaning. What decodes is well formed and encodes to what was taken: one byte
of a channel, or the whole frame. -/
def Obligations.EncodeOfDecodeGivesUnit : Prop :=
  ∀ (rom : Rom) (u : InboundUnit) (i : Instr) (rest : List Byte), decode rom u = .ok (i, rest) →
    i.wf rom = true ∧
    match u.port with
    | .rx _ => encode rom i = some { u with bytes := u.bytes.take 1 } ∧ rest = u.bytes.drop 1
    | .ing => encode rom i = some { u with selPending := false } ∧ rest = []

/-- R82, R83, R94, R211: units written out from the spec's own values decode to what they stand for. -/
def Obligations.SpecWordsDecode : Prop :=
  ∀ (rom : Rom) (c : Channel),
    decode rom ⟨.rx c, false, [0x9A]⟩ = .ok (.errstat c, []) ∧
    decode rom ⟨.rx c, true, [0x9A]⟩ = .ok (.nextreadSel c 0x9A, []) ∧
    decode rom ⟨.ing, false, [0x47]⟩ = .ok (.ingReset, []) ∧
    decode rom ⟨.ing, false, [0x67]⟩ = .ok (.ingMalformed [0x67], []) ∧
    decode rom ⟨.ing, false, List.replicate 30 0x47⟩ = .ok (.ingBitmap (Vector.replicate 30 0x47), []) ∧
    decode rom ⟨.rx c, false, []⟩ = .error .noByte

/-- R82, R96: each of the seven codes selects its own row, and exactly 249 byte values are OTHER. -/
def Obligations.OpcodeMapHasSevenCodes : Prop :=
  ∀ rom : Rom,
    decodeOpcode rom rom.cmdSyncver = .syncver ∧ decodeOpcode rom rom.cmdNextread = .nextread ∧
    decodeOpcode rom rom.cmdUnitver = .unitver ∧ decodeOpcode rom rom.cmdMyst1 = .myst1 ∧
    decodeOpcode rom rom.cmdMyst2 = .myst2 ∧ decodeOpcode rom rom.cmdStart = .start ∧
    decodeOpcode rom 154 = .errstat ∧
    ((List.range 256).filter fun n =>
      decide (decodeOpcode rom (BitVec.ofNat 8 n) = .other (BitVec.ofNat 8 n))).length = 249

/-! ## PacketCodec -/

/-- R110: REMAP gives the channel and the packed offset of the source's formula; outside 0..239 it is refused. -/
def Obligations.RemapFollowsFormula : Prop :=
  ∀ (k : Nat) (s : State),
    (k + 1 ≤ 120 →
      exec (.remap k) s = .next { s with result := .remap .R ((k + 1) + ((k + 1) - 1) / 5 * 3 + 7) }) ∧
    (120 < k + 1 → k + 1 ≤ 240 →
      exec (.remap k) s = .next { s with result := .remap .L ((k + 1 - 120) + ((k + 1 - 120) - 1) / 5 * 3 + 7) }) ∧
    (240 < k + 1 → exec (.remap k) s = .refused .keyOutOfRange)

/-- R111, R112: the closed form of the remap, its range, and that no two keys share a channel and offset. -/
def Obligations.RemapIsInjective : Prop :=
  (∀ k, k < 240 →
    (remap k).1 = (if k < 120 then Channel.R else Channel.L) ∧ byteOf (remap k).2 = 1 + k % 120 / 5 ∧
    bitOf (remap k).2 = k % 120 % 5 ∧ 8 ≤ (remap k).2 ∧ (remap k).2 ≤ 196) ∧
  ∀ k k', k < 240 → k' < 240 → remap k = remap k' → k = k'

/-- R113, R112: UNMAP is the exact inverse of REMAP, and answers none on just the offsets that carry no key. -/
def Obligations.UnmapInvertsRemap : Prop :=
  (∀ c off (s : State), exec (.unmap c off) s = .next { s with result := .unmap (unmap c off) }) ∧
  (∀ k, k < 240 → unmap (remap k).1 (remap k).2 = some k) ∧
  (∀ c off k, unmap c off = some k → k < 240 ∧ remap k = (c, off)) ∧
  ∀ c off, unmap c off = none ↔ off < 8 ∨ 196 < off ∨ 4 < off % 8

/-- R115, R91, and R92 (filler is 0: decision D3): the bits of the packed bytes, one by one. -/
def Obligations.PackPlacesEveryKey : Prop :=
  ∀ (c : Channel) (s : State), ∃ p : Packed, exec (.pack c) s = .next { s with result := .packed p } ∧
    (∀ b j, 1 ≤ b → b ≤ 24 → j < 8 →
      (packedByte p b).getLsbD j =
        (decide (j < 5) && readKey s.keys ((match c with | .R => 0 | .L => 120) + 5 * (b - 1) + j))) ∧
    ∀ b, 25 ≤ b → b ≤ 33 → packedByte p b = 0

/-- R123: SETKEY answers for every operand with packed bytes that depend on its operands alone, and for an offset in 8..271
they are the operand with the one bit written that the offset names. R123 states no result for another offset; that SETKEY
runs there all the same, with free bytes, is the model's choice (notes/assumptions/11.md). -/
def Obligations.SetkeyWritesOneBit : Prop :=
  ∀ (p : Packed) (off : Nat) (v : Bool), ∃ q : Packed,
    (∀ s : State, exec (.setkey p off v) s = .next { s with result := .packed q }) ∧
    (8 ≤ off → off < 272 → ∀ o, 8 ≤ o → o < 272 →
      (packedByte q (o / 8)).getLsbD (o % 8) = if o = off then v else (packedByte p (o / 8)).getLsbD (o % 8))

/-- R123: SETKEY with the offset of a key keeps the packed bytes equal to PACK of the changed bitmap. -/
def Obligations.SetkeyTracksPack : Prop :=
  ∀ (keys : Keys) (k : Nat) (v : Bool) (s : State), k < 240 →
    exec (.setkey (pack keys (remap k).1) (remap k).2 v) s =
      .next { s with result := .packed (pack (writeKey keys k v) (remap k).1) }

/-- R116 (with decision D17 for `n = 0` and for `n` beyond the string): bit `j` of the checksum is the parity of the bits
`j` of the bytes folded. -/
def Obligations.ChecksumIsBitParity : Prop :=
  ∀ (bytes : List Byte) (n : Nat) (s : State),
    (n ≤ bytes.length → ∃ x : Byte, exec (.checksum bytes n) s = .next { s with result := .checksum x } ∧
      ∀ j, j < 8 → x.getLsbD j = decide (((bytes.take n).filter (·.getLsbD j)).length % 2 = 1)) ∧
    (bytes.length < n → exec (.checksum bytes n) s = .refused .checksumTooLong)

/-- R116: appending its checksum to a string gives a string whose XOR-fold is 0. -/
def Obligations.AppendedChecksumFoldsToZero : Prop :=
  ∀ bytes : List Byte,
    checksum (bytes ++ [checksum bytes bytes.length]) (bytes ++ [checksum bytes bytes.length]).length = 0

/-- R117: BUILDFRAME, byte by byte, and the counter value it hands back. -/
def Obligations.BuildframeLayout : Prop :=
  ∀ (p : Packed) (n : Counter) (s : State), ∃ (F : List Byte) (n' : Counter),
    exec (.buildframe p n) s = .next { s with result := .frame F n' } ∧
    n'.toNat = (n.toNat + 1) % 128 ∧ F.length = 36 ∧ F[0]? = some 129 ∧
    (∀ b, 1 ≤ b → b ≤ 33 → F[b]? = some (packedByte p b)) ∧
    F[34]? = some (BitVec.ofNat 8 n'.toNat) ∧ F[35]? = some (checksum F 35)

/-- R119 (decision D16): what each of the four answers of VERIFY means. -/
def Obligations.VerifyReportsFourChecks : Prop :=
  ∀ (bytes : List Byte) (s : State), ∃ v : Verdict, exec (.verify bytes) s = .next { s with result := .verdict v } ∧
    (bytes.length ≠ 36 → v = ⟨false, false, false, false⟩) ∧
    (bytes.length = 36 → v.lenOk = true ∧ (v.hdrOk = true ↔ bytes[0]? = some 129) ∧
      (v.sumOk = true ↔ bytes[35]? = some (checksum bytes 35)) ∧
      (v.layoutOk = true ↔
        (∀ x, bytes[34]? = some x → x.toNat ≤ 127) ∧
        (∀ b x, 1 ≤ b → b ≤ 24 → bytes[b]? = some x → x &&& 0xE0 = 0) ∧
        ∀ b x, 25 ≤ b → b ≤ 33 → bytes[b]? = some x → x = 0))

/-- R120, R93: every frame the block builds passes the verifier in all four answers, and its checksum byte has bit 7
set. -/
def Obligations.BuiltFramesVerify : Prop :=
  ∀ (keys : Keys) (c : Channel) (n : Counter) (s : State),
    exec (.verify (sentFrame keys c n)) s = .next { s with result := .verdict Verdict.allTrue } ∧
    ∀ x, (sentFrame keys c n)[35]? = some x → 128 ≤ x.toNat

/-- R120, the converse: a valid frame is built by exactly one counter value and one state of the channel's 120 keys, which
are read back with UNMAP. -/
def Obligations.ValidFrameHasOneBuild : Prop :=
  ∀ (c : Channel) (bytes : List Byte), (verify bytes).frameOk = true →
    ∃ (keys : Keys) (n : Counter), sentFrame keys c n = bytes ∧
      n.toNat = ((bytes.getD 34 0).toNat + 127) % 128 ∧
      (∀ off k, unmap c off = some k → readKey keys k = (bytes.getD (byteOf off) 0).getLsbD (bitOf off)) ∧
      ∀ (keys' : Keys) (n' : Counter), sentFrame keys' c n' = bytes →
        n' = n ∧ ∀ k, k < 240 → (remap k).1 = c → readKey keys' k = readKey keys k

/-! ## ChannelProtocol -/

/-- `modifyCh`, in which the effects of the commands are stated: it changes the one channel and no other field. -/
def Obligations.ChannelUpdateTouchesOneChannel : Prop :=
  ∀ (s : State) (c : Channel) (f : ChannelState → ChannelState),
    (s.modifyCh c f).ch c = f (s.ch c) ∧ (s.modifyCh c f).ch c.other = s.ch c.other ∧
    (s.modifyCh c f).cfg = s.cfg ∧ (s.modifyCh c f).keys = s.keys ∧ (s.modifyCh c f).prev = s.prev ∧
    (s.modifyCh c f).change = s.change ∧ (s.modifyCh c f).schedStarted = s.schedStarted ∧
    (s.modifyCh c f).log = s.log ∧ (s.modifyCh c f).ing = s.ing ∧ (s.modifyCh c f).ingWork = s.ingWork ∧
    (s.modifyCh c f).wakePhase = s.wakePhase ∧ (s.modifyCh c f).result = s.result ∧
    (s.modifyCh c f).agenda = s.agenda ∧ (s.modifyCh c f).tick = s.tick

/-- R151: SYNCVER clears `init[c]` and sends 8 bytes, the same on both channels; nothing else changes. -/
def Obligations.SyncverAnswers : Prop :=
  ∀ rom : Rom, ∃ rsp : List Byte,
    rsp = [rom.cmdSyncver] ++ rom.syncVer.toList ++ [0x2C] ∧ rsp.length = 8 ∧
    ∀ (c : Channel) (s : State), s.cfg.rom = rom →
      exec (.syncver c) s = .next (s.modifyCh c fun ch => { ch with init := false, tx := ch.tx ++ rsp })

/-- R154: UNITVER clears `init[c]` and sends 45 bytes that differ between the channels at offsets 7 and 44 only. -/
def Obligations.UnitverAnswers : Prop :=
  ∀ rom : Rom, ∃ rsp : Channel → List Byte,
    (∀ c, rsp c = [rom.cmdUnitver] ++ rom.syncVer.toList ++ [match c with | .R => rom.sideR | .L => rom.sideL] ++
      (List.replicate 6 rom.unitVer.toList).flatten ++ [match c with | .R => rom.unitSumR | .L => rom.unitSumL]) ∧
    (∀ c, (rsp c).length = 45) ∧ (rsp .R)[7]? ≠ (rsp .L)[7]? ∧
    (∀ j, j ≠ 7 → j ≠ 44 → (rsp .R)[j]? = (rsp .L)[j]?) ∧
    ∀ (c : Channel) (s : State), s.cfg.rom = rom →
      exec (.unitver c) s = .next (s.modifyCh c fun ch => { ch with init := false, tx := ch.tx ++ rsp c })

/-- R155, R156: the mystery commands clear `init[c]` and send their fixed 3 bytes, distinct per command. -/
def Obligations.MysteryCommandsAnswer : Prop :=
  ∀ (c : Channel) (s : State),
    exec (.myst1 c) s =
      .next (s.modifyCh c fun ch => { ch with init := false, tx := ch.tx ++ s.cfg.rom.payMyst1.toList }) ∧
    exec (.myst2 c) s =
      .next (s.modifyCh c fun ch => { ch with init := false, tx := ch.tx ++ s.cfg.rom.payMyst2.toList }) ∧
    s.cfg.rom.payMyst1.toList.length = 3 ∧ s.cfg.rom.payMyst2.toList.length = 3 ∧
    s.cfg.rom.payMyst1 ≠ s.cfg.rom.payMyst2

/-- R157: START sets `init[c]`, acknowledges with 3 bytes and starts the transmit path; the counter and everything else
stay. -/
def Obligations.StartEntersScanning : Prop :=
  ∀ (c : Channel) (s : State),
    exec (.start c) s =
      .next { (s.modifyCh c fun ch => { ch with init := true, tx := ch.tx ++ s.cfg.rom.payStart.toList }) with
        schedStarted := true } ∧
    s.cfg.rom.payStart.toList.length = 3

/-- R158, R223: ERRSTAT clears `init[c]`, sends nothing and logs a warning. -/
def Obligations.ErrstatClearsAndWarns : Prop :=
  ∀ (c : Channel) (s : State),
    exec (.errstat c) s =
      .next { (s.modifyCh c fun ch => { ch with init := false }) with log := s.log ++ [⟨.warn, .errstat⟩] }

/-- R159, R224: a byte that is no code does nothing; polled from the queue, it is consumed and discarded. -/
def Obligations.OtherByteIsDiscarded : Prop :=
  ∀ (c : Channel) (b : Byte) (s : State),
    exec (.other c b) s = .next s ∧
    ∀ q, (s.ch c).rxq = b :: q → (s.ch c).selPending = false → b ∉ s.cfg.rom.codes → s.cfg.rxDrain = false →
      exec (.poll c) s = .next (s.modifyCh c fun ch => { ch with rxq := q })

/-- R152 (the wait is decision D6): the command byte of next-read clears `init[c]`, sends nothing, and the dispatcher waits
for a selector. -/
def Obligations.NextreadWaitsForSelector : Prop :=
  ∀ (c : Channel) (s : State),
    exec (.nextread c) s = .next (s.modifyCh c fun ch => { ch with init := false, selPending := true })

/-- R153, R85, R88: the selector chooses one of three tables, sent with its checksum appended, so that the response folds
to 0; any other selector is consumed without a response and without a record. -/
def Obligations.SelectorChoosesTable : Prop :=
  ∀ (c : Channel) (sel : Byte) (s : State),
    (∀ k : Fin Param.nCal, sel = s.cfg.rom.sel[k] →
      ∃ rsp : List Byte, rsp = s.cfg.rom.cal[k] ++ [checksum s.cfg.rom.cal[k] s.cfg.rom.cal[k].length] ∧
        checksum rsp rsp.length = 0 ∧
        exec (.nextreadSel c sel) s =
          .next (s.modifyCh c fun ch => { ch with selPending := false, tx := ch.tx ++ rsp })) ∧
    (sel ∉ s.cfg.rom.sels →
      exec (.nextreadSel c sel) s = .next (s.modifyCh c fun ch => { ch with selPending := false }))

/-- R150: DISPATCH runs the command that the spec's chain of tests, in its order, finds. -/
def Obligations.DispatchFollowsTheTable : Prop :=
  ∀ (c : Channel) (b : Byte) (s : State), ∃ t : State, exec (.dispatch c b) s = .next t ∧
    exec (if (s.ch c).selPending then .nextreadSel c b
      else if b = s.cfg.rom.cmdSyncver then .syncver c
      else if b = s.cfg.rom.cmdNextread then .nextread c
      else if b = s.cfg.rom.cmdUnitver then .unitver c
      else if b = s.cfg.rom.cmdMyst1 then .myst1 c
      else if b = s.cfg.rom.cmdMyst2 then .myst2 c
      else if b = s.cfg.rom.cmdStart then .start c
      else if b = 154 then .errstat c
      else .other c b) s = .next t

/-- R162: no command, dispatch or poll of a channel touches the bitmap, the change signal, the counter, or the other
channel. -/
def Obligations.CommandsLeaveTheRestAlone : Prop :=
  ∀ (c : Channel) (i : Instr) (s : State),
    ((∃ cmd : Command, i = cmd.instr c) ∨ (∃ b, i = .dispatch c b) ∨ i = .poll c) →
    ∃ t : State, exec i s = .next t ∧ t.keys = s.keys ∧ t.prev = s.prev ∧ t.change = s.change ∧
      (t.ch c).ctr = (s.ch c).ctr ∧ t.ch c.other = s.ch c.other ∧ t.cfg = s.cfg ∧ t.ing = s.ing ∧
      t.ingWork = s.ingWork ∧ t.wakePhase = s.wakePhase ∧ t.result = s.result ∧ t.agenda = s.agenda ∧ t.tick = s.tick

/-- R160: the transition table of the dispatcher. -/
def Obligations.DispatcherModeTable : Prop :=
  ∀ (c : Channel) (b : Byte) (s : State), (s.ch c).mode ≠ .unreachable →
    ∃ t : State, exec (.dispatch c b) s = .next t ∧
      (t.ch c).mode =
        if (s.ch c).mode = .waiting then .uninitialized
        else if b = s.cfg.rom.cmdStart then .scanning
        else if b = s.cfg.rom.cmdNextread then .waiting
        else if b ∈ s.cfg.rom.codes then .uninitialized
        else (s.ch c).mode

/-! ## Poller -/

/-- R180: one POLL, case by case: an empty queue; one byte that completes a command; the command byte of next-read alone;
and next-read with its selector in one step. With `RX_DRAIN` a completed command empties the queue (R184). -/
def Obligations.PollTakesOneCommand : Prop :=
  ∀ (c : Channel) (s : State),
    ((s.ch c).rxq = [] → exec (.poll c) s = .next s) ∧
    ∀ b q, (s.ch c).rxq = b :: q →
      ((s.ch c).selPending = true ∨ b ≠ s.cfg.rom.cmdNextread →
        ∃ t : State, exec (.dispatch c b) (s.modifyCh c fun ch => { ch with rxq := q }) = .next t ∧
          exec (.poll c) s =
            .next (if s.cfg.rxDrain then t.modifyCh c fun ch => { ch with rxq := [] } else t)) ∧
      ((s.ch c).selPending = false → b = s.cfg.rom.cmdNextread → q = [] →
        exec (.poll c) s =
          .next (s.modifyCh c fun ch => { ch with init := false, selPending := true, rxq := [] })) ∧
      ∀ sel q', (s.ch c).selPending = false → b = s.cfg.rom.cmdNextread → q = sel :: q' →
        ∃ t : State,
          exec (.nextreadSel c sel)
            (s.modifyCh c fun ch => { ch with init := false, selPending := true, rxq := q' }) = .next t ∧
          exec (.poll c) s =
            .next (if s.cfg.rxDrain then t.modifyCh c fun ch => { ch with rxq := [] } else t)

/-- R182 (and R184 with `RX_DRAIN = false`, decision D5): a POLL of a non-empty queue consumes one byte, or two where the
first is the command byte of next-read; the rest stays. -/
def Obligations.PollConsumesOneOrTwoBytes : Prop :=
  ∀ (c : Channel) (s : State), s.cfg.rxDrain = false → (s.ch c).rxq ≠ [] →
    ∃ t : State, exec (.poll c) s = .next t ∧
      ((t.ch c).rxq = (s.ch c).rxq.drop 1 ∨
        (s.ch c).selPending = false ∧ (s.ch c).rxq.head? = some s.cfg.rom.cmdNextread ∧
          (t.ch c).rxq = (s.ch c).rxq.drop 2)

/-- R184: `RX_DRAIN` changes a POLL in one thing only, that the queue is empty after it. -/
def Obligations.RxDrainOnlyEmptiesTheQueue : Prop :=
  ∀ (c : Channel) (s : State), s.cfg.rxDrain = true →
    ∃ t t' : State, exec (.poll c) s = .next t ∧
      exec (.poll c) { s with cfg := { s.cfg with rxDrain := false } } = .next t' ∧
      t = { (t'.modifyCh c fun ch => { ch with rxq := [] }) with cfg := s.cfg }

/-- R183: what a POLL does to its channel, to the log and to `sched_started` depends on that channel's queue and two flags
and on the parameters alone, and it writes nothing else. -/
def Obligations.PollersAreIndependent : Prop :=
  ∀ (c : Channel) (s₁ s₂ : State), s₁.cfg = s₂.cfg → (s₁.ch c).rxq = (s₂.ch c).rxq →
    (s₁.ch c).init = (s₂.ch c).init → (s₁.ch c).selPending = (s₂.ch c).selPending →
    ∃ (init selPending started : Bool) (rxq out : List Byte) (records : List LogRecord),
      ∀ s, (s = s₁ ∨ s = s₂) →
        exec (.poll c) s =
          .next { (s.modifyCh c fun ch =>
              { ch with init := init, selPending := selPending, rxq := rxq, tx := ch.tx ++ out }) with
            schedStarted := s.schedStarted || started
            log := s.log ++ records }

/-! ## SendScheduler -/

/-- R192, R197: SEND is gated by `init[c]`; it writes one frame and advances the counter, or does nothing. -/
def Obligations.SendIsGated : Prop :=
  ∀ (c : Channel) (s : State),
    ((s.ch c).init = true →
      exec (.send c) s = .next (s.modifyCh c fun ch =>
        { ch with ctr := ch.ctr + 1, tx := ch.tx ++ sentFrame s.keys c ch.ctr })) ∧
    ((s.ch c).init = false → exec (.send c) s = .next s)

/-- R190 (the wake is atomic: decision D8, R196; enabled: decision D13, R191): a wake clears `change` and sends one frame of
the same bitmap on each initialised channel, with that channel's counter. -/
def Obligations.WakeSendsOnScanningChannels : Prop :=
  ∀ s : State, s.schedStarted = true → s.cfg.wakeAtomic = true →
    ∃ t : State, exec .wake s = .next t ∧ t.change = false ∧
      (∀ c, t.ch c = if (s.ch c).init then
          { s.ch c with
            ctr := (s.ch c).ctr + 1
            tx := (s.ch c).tx ++ sentFrame s.keys c (s.ch c).ctr }
        else s.ch c) ∧
      t.cfg = s.cfg ∧ t.keys = s.keys ∧ t.prev = s.prev ∧ t.schedStarted = s.schedStarted ∧ t.log = s.log ∧
      t.ing = s.ing ∧ t.ingWork = s.ingWork ∧ t.wakePhase = s.wakePhase ∧ t.result = s.result ∧
      t.agenda = s.agenda ∧ t.tick = s.tick

/-- R191: before the first START there is no wake; that SCHED then idles, `change` kept, is deduced
(notes/assumptions/6.md). -/
def Obligations.WakeBeforeStartIsIdle : Prop :=
  ∀ s : State, s.schedStarted = false → exec .wake s = .next s

/-- R196, `WAKE_ATOMIC = false`: the three steps of a split wake, taken in a row, are the whole wake. -/
def Obligations.SplitWakeComposes : Prop :=
  ∀ (s : State) (es : List Event), s.schedStarted = true → s.cfg.wakeAtomic = false → s.wakePhase = .idle →
    ∃ t t' : State, core.run 3 (s.withAgenda (.wake :: .wake :: .wake :: es)) = .next t ∧
      exec .wake { s.withAgenda es with cfg := { s.cfg with wakeAtomic := true } } = .next t' ∧
      t = { t' with cfg := s.cfg }

/-- R118, R197: `n` wakes in a row write `n` frames on a scanning channel; the `m`-th carries the counter `ctr + m` modulo
128, whatever it was before, so `m mod 128` counted from reset. -/
def Obligations.CounterLaw : Prop :=
  ∀ (c : Channel) (s : State) (es : List Event) (n : Nat), s.schedStarted = true → s.cfg.wakeAtomic = true →
    (s.ch c).init = true →
    (∃ t : State, core.run n (s.withAgenda (List.replicate n .wake ++ es)) = .next t ∧ t.agenda = es ∧
      (t.ch c).ctr = (s.ch c).ctr + BitVec.ofNat _ n ∧
      (t.ch c).tx = (s.ch c).tx ++
        ((List.range n).map fun m => sentFrame s.keys c ((s.ch c).ctr + BitVec.ofNat _ m)).flatten) ∧
    ∀ m, 1 ≤ m → m ≤ n → ∃ x : Byte, x.toNat = ((s.ch c).ctr.toNat + m) % 128 ∧
      (sentFrame s.keys c ((s.ch c).ctr + BitVec.ofNat _ (m - 1)))[34]? = some x

/-! ## IngestBridge -/

/-- R200 with R94: INGEST takes the oldest frame and runs what its class stands for; with no frame it idles. -/
def Obligations.IngestClassifiesFrames : Prop :=
  ∀ s : State, s.ingWork = none →
    (s.ing = [] → exec .ingest s = .next s) ∧
    ∀ f rest, s.ing = f :: rest →
      (f.length = 1 ∧ f[0]? = some 71 →
        ∃ t, exec .ingReset { s with ing := rest } = .next t ∧ exec .ingest s = .next t) ∧
      (∀ g : RawFrame, f = g.toList → s.cfg.ingestAtomic = true →
        ∃ t, exec (.ingBitmap g) { s with ing := rest } = .next t ∧ exec .ingest s = .next t) ∧
      (¬(f.length = 1 ∧ f[0]? = some 71) → f.length ≠ 30 →
        ∃ t, exec (.ingMalformed f) { s with ing := rest } = .next t ∧ exec .ingest s = .next t)

/-- R201, R203: the reset signal clears all 240 keys, and the previous frame only under `RESET_CLEARS_PREV`; nothing else
changes, `change` and the log included. -/
def Obligations.ResetSignalClearsBitmap : Prop :=
  ∀ s : State, ∃ t : State, exec .ingReset s = .next t ∧ (∀ k, readKey t.keys k = false) ∧
    t = { s with keys := t.keys, prev := if s.cfg.resetClearsPrev then Vector.replicate 30 0 else s.prev }

/-- R202, R205: a bitmap frame writes the changed keys and no other, replaces the previous frame, and raises `change` just
when the frames differ. -/
def Obligations.BitmapFrameWritesChangedKeys : Prop :=
  ∀ (f : RawFrame) (s : State), ∃ keys' : Keys,
    exec (.ingBitmap f) s =
      .next { s with keys := keys', prev := f, change := s.change || decide (f ≠ s.prev) } ∧
    ∀ i j, i < 30 → j < 8 →
      readKey keys' (i * 8 + j) =
        if (f.getD i 0 ^^^ s.prev.getD i 0).getLsbD j then (f.getD i 0).getLsbD j else readKey s.keys (i * 8 + j)

/-- R206: applying an identical frame a second time in a row changes nothing at all. -/
def Obligations.RepeatedFrameChangesNothing : Prop :=
  ∀ (f : RawFrame) (s : State), ∃ t : State, exec (.ingBitmap f) s = .next t ∧ exec (.ingBitmap f) t = .next t

/-- R204, R222: a malformed frame is logged as a warning and changes nothing else. -/
def Obligations.MalformedFrameOnlyLogs : Prop :=
  ∀ (f : List Byte) (s : State),
    exec (.ingMalformed f) s = .next { s with log := s.log ++ [⟨.warn, .malformedIngest⟩] }

/-- R208, `INGEST_ATOMIC = false` (the order of the steps is the model's, notes/assumptions/7.md): one step to take the
frame, one for each changed key and one to finish, taken in a row, are the whole frame. -/
def Obligations.SplitFrameComposes : Prop :=
  ∀ (s : State) (f : RawFrame) (rest : List (List Byte)) (es : List Event) (n : Nat),
    s.cfg.ingestAtomic = false → s.ingWork = none → s.ing = f.toList :: rest →
    n = ((List.range 240).filter fun k => keyBit f k != keyBit s.prev k).length →
    ∃ t : State, core.run (n + 2) (s.withAgenda (List.replicate (n + 2) .ingest ++ es)) = .next t ∧
      exec (.ingBitmap f) { s.withAgenda es with ing := rest } = .next t

/-- R266: an all-zero frame before the reset signal makes both values of `RESET_CLEARS_PREV` agree. -/
def Obligations.ZeroFrameBeforeResetAgrees : Prop :=
  ∀ (s : State) (b : Bool), ∃ t₁ t₂ u₁ u₂ : State,
    exec (.ingBitmap (Vector.replicate 30 0)) s = .next t₁ ∧ exec .ingReset t₁ = .next t₂ ∧
    exec (.ingBitmap (Vector.replicate 30 0)) { s with cfg := { s.cfg with resetClearsPrev := b } } = .next u₁ ∧
    exec .ingReset u₁ = .next u₂ ∧ u₂ = { t₂ with cfg := u₂.cfg } ∧ t₂.BitmapAgrees

/-! ## Steps and whole-machine rules -/

/-- R67 (the form, a settled schedule and free events, is notes/assumptions/2.md): a step with a settled event is that agent's
operation, or that action of the environment; with none, it is the step of a free event. In the reset clause the reset state
and the kept parameters are R250 and R252; that the port's frames, the schedule and the tick stay is the model's choice
(notes/assumptions/8.md). -/
def Obligations.StepRunsItsEvent : Prop :=
  ∀ (s : State) (es : List Event),
    (∀ c, step (s.withAgenda (.poll c :: es)) = exec (.poll c) (s.withAgenda es)) ∧
    step (s.withAgenda (.wake :: es)) = exec .wake (s.withAgenda es) ∧
    step (s.withAgenda (.ingest :: es)) = exec .ingest (s.withAgenda es) ∧
    (∀ c b, step (s.withAgenda (.rx c b :: es)) =
      .next ((s.withAgenda es).modifyCh c fun ch => { ch with rxq := ch.rxq ++ [b] })) ∧
    (∀ f, step (s.withAgenda (.offer f :: es)) = .next { s.withAgenda es with ing := s.ing ++ [f] }) ∧
    step (s.withAgenda (.reset :: es)) =
      .next { State.resetWith s.cfg with ing := s.ing, agenda := es, tick := s.tick } ∧
    step (s.withAgenda []) = step { s.withAgenda [Config.freeEvent s.tick] with tick := s.tick + 1 }

/-- R83, R94, R150, R180, R200: a step of the agent at a port is `exec` of what the decoder reads there, on the state with
the event and the bytes taken off. For next-read with a byte behind it, the step goes on to the selector. -/
def Obligations.StepRunsDecodedUnit : Prop :=
  ∀ (s : State) (es : List Event) (i : Instr) (rest : List Byte),
    (∀ c, s.cfg.rxDrain = false →
      decode s.cfg.rom ⟨.rx c, (s.ch c).selPending, (s.ch c).rxq⟩ = .ok (i, rest) →
      (i ≠ .nextread c ∨ rest = [] →
        step (s.withAgenda (.poll c :: es)) =
          exec i ((s.withAgenda es).modifyCh c fun ch => { ch with rxq := rest })) ∧
      ∀ sel rest', i = .nextread c → rest = sel :: rest' →
        ∃ t, exec i ((s.withAgenda es).modifyCh c fun ch => { ch with rxq := rest' }) = .next t ∧
          step (s.withAgenda (.poll c :: es)) = exec (.nextreadSel c sel) t) ∧
    ∀ f frames, s.ing = f :: frames → s.ingWork = none → s.cfg.ingestAtomic = true →
      decode s.cfg.rom ⟨.ing, false, f⟩ = .ok (i, rest) →
      step (s.withAgenda (.ingest :: es)) = exec i { s.withAgenda es with ing := frames }

/-- R220, R239: no state and no input stops the block. -/
def Obligations.StepAlwaysAnswers : Prop :=
  ∀ s : State, ∃ t : State, step s = .next t

/-- R39 (decision D14 for all but `init`, `ctr` and `sched_started`; the model's own fields are notes/assumptions/5.md): the
state after reset. -/
def Obligations.ResetValues : Prop :=
  ∀ s : State, (s = State.reset ∨ ∃ cfg, s = State.resetWith cfg) →
    s.keys = 0 ∧ (∀ i, i < 30 → s.prev.getD i 0 = 0) ∧ s.change = false ∧ s.schedStarted = false ∧
    (∀ c, s.ch c = { init := false, ctr := 0, selPending := false, rxq := [], tx := [] }) ∧ s.log = [] ∧
    s.ing = [] ∧ s.ingWork = none ∧ s.wakePhase = .idle ∧ s.result = .nothing ∧ s.agenda = [] ∧ s.tick = 0

/-- R250 (decisions D1, D14; what the input leaves alone is notes/assumptions/8.md): the reset input gives every piece of
state of R20 its reset value, whatever was in progress; the parameters stay (R252). -/
def Obligations.HardwareResetClearsEverything : Prop :=
  ∀ (s : State) (es : List Event), ∃ t : State, step (s.withAgenda (.reset :: es)) = .next t ∧
    t.keys = 0 ∧ (∀ i, i < 30 → t.prev.getD i 0 = 0) ∧ t.change = false ∧ t.schedStarted = false ∧
    (∀ c, t.ch c = { init := false, ctr := 0, selPending := false, rxq := [], tx := [] }) ∧ t.log = [] ∧
    t.ingWork = none ∧ t.wakePhase = .idle ∧ t.cfg = s.cfg ∧ t.ing = s.ing ∧ t.agenda = es

/-- R7, R226 (that start-up is modelled at all, and that the channels are tested before the ROM, is
notes/assumptions/10.md): the block starts only with both channels open and
a ROM that meets R7, and then it starts in the reset state with that ROM. -/
def Obligations.PowerOnChecksRomAndChannels : Prop :=
  ∀ (d : RomData) (p x a w openR openL : Bool),
    ((openR = false ∨ openL = false) → State.powerOn d p x a w openR openL = .fault .openFail) ∧
    (openR = true → openL = true →
      ¬(d.codes.Nodup ∧ d.sels.Nodup ∧ d.sideR ≠ d.sideL ∧ d.payMyst1 ≠ d.payMyst2) →
      State.powerOn d p x a w openR openL = .refused .illFormedRom) ∧
    (openR = true → openL = true → d.codes.Nodup → d.sels.Nodup → d.sideR ≠ d.sideL → d.payMyst1 ≠ d.payMyst2 →
      ∃ cfg : Config, State.powerOn d p x a w openR openL = .next (State.resetWith cfg) ∧ cfg.rom.toRomData = d ∧
        cfg.resetClearsPrev = p ∧ cfg.rxDrain = x ∧ cfg.ingestAtomic = a ∧ cfg.wakeAtomic = w)

/-- R35 holds after reset. -/
def Obligations.ResetMeetsModeInv : Prop :=
  State.reset.ModeInv ∧ ∀ cfg, (State.resetWith cfg).ModeInv

/-- R35: every step keeps it. -/
def Obligations.StepKeepsModeInv : Prop :=
  ∀ s t : State, s.ModeInv → step s = .next t → t.ModeInv

/-- R36 holds after reset. -/
def Obligations.ResetMeetsBitmapInv : Prop :=
  State.reset.BitmapInv ∧ ∀ cfg, (State.resetWith cfg).BitmapInv

/-- R36: the bitmap equals the last accepted raw frame; every step keeps it but one that takes the reset signal with
`RESET_CLEARS_PREV = false`. With `INGEST_ATOMIC = false` it holds between frames, and inside one key by key. -/
def Obligations.StepKeepsBitmapInv : Prop :=
  ∀ s t : State, s.BitmapInv → (s.cfg.resetClearsPrev = true ∨ ¬s.TakesResetSignal) → step s = .next t → t.BitmapInv

/-- R234, R233: a channel changes between Uninitialized and Scanning only by a command byte on that channel that is no
selector, or by the reset input; into Scanning only by START. -/
def Obligations.ModeChangesOnlyByItsCommands : Prop :=
  ∀ (s t : State) (c : Channel), step s = .next t → (t.ch c).init ≠ (s.ch c).init →
    ((nextEvent s).1 = .reset ∧ (t.ch c).init = false) ∨
    ((nextEvent s).1 = .poll c ∧ (s.ch c).selPending = false ∧ ∃ b q, (s.ch c).rxq = b :: q ∧
      if (t.ch c).init then b = s.cfg.rom.cmdStart
      else b = s.cfg.rom.cmdSyncver ∨ b = s.cfg.rom.cmdNextread ∨ b = s.cfg.rom.cmdUnitver ∨
        b = s.cfg.rom.cmdMyst1 ∨ b = s.cfg.rom.cmdMyst2 ∨ b = 154)

/-- R34, R70, R26, R33: which agent's step can write each piece of state, the reset input aside. -/
def Obligations.EachStateHasItsWriters : Prop :=
  ∀ s t : State, step s = .next t → (nextEvent s).1 ≠ .reset →
    t.cfg = s.cfg ∧
    (t.keys ≠ s.keys ∨ t.prev ≠ s.prev → (nextEvent s).1 = .ingest) ∧
    (s.change = false → t.change = true → (nextEvent s).1 = .ingest) ∧
    (s.change = true → t.change = false → (nextEvent s).1 = .wake ∧ s.schedStarted = true) ∧
    (s.schedStarted = true → t.schedStarted = true) ∧
    (t.schedStarted ≠ s.schedStarted → ∃ c, (nextEvent s).1 = .poll c) ∧
    (t.log ≠ s.log → (nextEvent s).1 = .ingest ∨ ∃ c, (nextEvent s).1 = .poll c) ∧
    ∀ c,
      ((t.ch c).init ≠ (s.ch c).init ∨ (t.ch c).selPending ≠ (s.ch c).selPending → (nextEvent s).1 = .poll c) ∧
      ((t.ch c).ctr ≠ (s.ch c).ctr →
        (nextEvent s).1 = .wake ∧ (s.ch c).init = true ∧ (t.ch c).ctr = (s.ch c).ctr + 1) ∧
      ((t.ch c).rxq ≠ (s.ch c).rxq → (nextEvent s).1 = .poll c ∨ ∃ b, (nextEvent s).1 = .rx c b)

/-- R193, R31, R54, R65: the transmit stream only grows; a step adds to it nothing, or the answer of that channel's POLL, or,
in a wake with `init[c]` set, exactly one whole ChannelFrame of the present bitmap; the log only grows. -/
def Obligations.FramesOnlyWhileScanning : Prop :=
  ∀ s t : State, step s = .next t → (nextEvent s).1 ≠ .reset →
    (∀ c, ∃ out : List Byte, (t.ch c).tx = (s.ch c).tx ++ out ∧
      (out = [] ∨ (nextEvent s).1 = .poll c ∨
        ((nextEvent s).1 = .wake ∧ (s.ch c).init = true ∧ out = sentFrame s.keys c (s.ch c).ctr))) ∧
    ∃ records, t.log = s.log ++ records

/-- R28, R191, R13: `change` never shows in what is observed, for any number of steps; nor does the codec's output, which
is the model's own (notes/assumptions/9.md). -/
def Obligations.ChangeIsUnobservable : Prop :=
  ∀ (n : Nat) (s : State) (b : Bool) (r : CodecResult), ∃ t t' : State,
    core.run n s = .next t ∧ core.run n { s with change := b, result := r } = .next t' ∧
    t' = { t with change := t'.change, result := t'.result } ∧ t'.observe = t.observe
end

