-- ==== Sys2Proof/Laws/Decode.lean ====
section
/-!
SUPPORT. What the decoder's parts can answer: the opcode map in the order of the spec, and the three classes of frame.
-/

namespace Sys2Proof

/-- The seven codes are pairwise distinct (R7). -/
theorem Rom.codes_nodup (rom : Rom) : rom.codes.Nodup := by
  have h := rom.wf
  simp only [RomData.wf, decide_eq_true_eq] at h
  exact h.1

/-- The three selectors are pairwise distinct (R7). -/
theorem Rom.sels_nodup (rom : Rom) : rom.sels.Nodup := by
  have h := rom.wf
  simp only [RomData.wf, decide_eq_true_eq] at h
  exact h.2.1

theorem classifyFrame_reset : classifyFrame [Param.resetByte] = .reset := rfl

theorem classifyFrame_bitmap (f : RawFrame) : classifyFrame f.toList = .bitmap f := by
  have h : f.toArray.toList ≠ [Param.resetByte] := fun h => by simpa using congrArg List.length h
  simp [classifyFrame, h, Vector.toList]

theorem classifyFrame_malformed {f : List Byte} (h : isMalformedFrame f = true) : classifyFrame f = .malformed f := by
  simp only [isMalformedFrame, Bool.and_eq_true, bne_iff_ne] at h
  simp [classifyFrame, h.1, h.2]

theorem tableBytes_length (w n : Nat) : (tableBytes w n).length = n := by
  induction n generalizing w with
  | zero => rfl
  | succ n ih => simp [tableBytes, ih]

end Sys2Proof
end

