-- ==== Sys2Proof/Laws/State.lean ====
section
/-!
SUPPORT. One lemma per field per update: what reading a field gives after each shared update of the state.
-/

namespace Sys2Proof.Machine

@[simp] theorem ch_R (s : State) : s.ch .R = s.chR := rfl
@[simp] theorem ch_L (s : State) : s.ch .L = s.chL := rfl

/-- An update that leaves both channels alone leaves every channel alone. -/
@[simp] theorem ch_mk (s : State) (cfg : Config) (keys : Keys) (prev : RawFrame) (change schedStarted : Bool)
    (log : List LogRecord) (ing : List (List Byte)) (ingWork : Option IngestWork) (wakePhase : WakePhase)
    (result : CodecResult) (agenda : List Event) (tick : Nat) (c : Channel) :
    (State.mk cfg keys prev change schedStarted s.chR s.chL log ing ingWork wakePhase result agenda tick).ch c = s.ch c := by
  cases c <;> rfl

theorem ch_modifyCh (s : State) (c c' : Channel) (f : ChannelState → ChannelState) :
    (s.modifyCh c f).ch c' = if c' = c then f (s.ch c') else s.ch c' := by
  cases c <;> cases c' <;> rfl

@[simp] theorem ch_modifyCh_self (s : State) (c : Channel) (f : ChannelState → ChannelState) :
    (s.modifyCh c f).ch c = f (s.ch c) := by
  cases c <;> rfl

@[simp] theorem ch_modifyCh_other (s : State) (c : Channel) (f : ChannelState → ChannelState) :
    (s.modifyCh c f).ch c.other = s.ch c.other := by
  cases c <;> rfl

theorem other_ne (c : Channel) : c.other ≠ c := by cases c <;> decide

@[simp] theorem modifyCh_modifyCh (s : State) (c : Channel) (f g : ChannelState → ChannelState) :
    (s.modifyCh c f).modifyCh c g = s.modifyCh c (fun ch => g (f ch)) := by
  cases c <;> rfl

@[simp] theorem modifyCh_id (s : State) (c : Channel) : s.modifyCh c (fun ch => ch) = s := by
  cases c <;> rfl

@[simp] theorem modifyCh_cfg (s : State) (c : Channel) (f : ChannelState → ChannelState) :
    (s.modifyCh c f).cfg = s.cfg := by cases c <;> rfl
@[simp] theorem modifyCh_keys (s : State) (c : Channel) (f : ChannelState → ChannelState) :
    (s.modifyCh c f).keys = s.keys := by cases c <;> rfl
@[simp] theorem modifyCh_prev (s : State) (c : Channel) (f : ChannelState → ChannelState) :
    (s.modifyCh c f).prev = s.prev := by cases c <;> rfl
@[simp] theorem modifyCh_change (s : State) (c : Channel) (f : ChannelState → ChannelState) :
    (s.modifyCh c f).change = s.change := by cases c <;> rfl
@[simp] theorem modifyCh_schedStarted (s : State) (c : Channel) (f : ChannelState → ChannelState) :
    (s.modifyCh c f).schedStarted = s.schedStarted := by cases c <;> rfl
@[simp] theorem modifyCh_log (s : State) (c : Channel) (f : ChannelState → ChannelState) :
    (s.modifyCh c f).log = s.log := by cases c <;> rfl
@[simp] theorem modifyCh_ing (s : State) (c : Channel) (f : ChannelState → ChannelState) :
    (s.modifyCh c f).ing = s.ing := by cases c <;> rfl
@[simp] theorem modifyCh_ingWork (s : State) (c : Channel) (f : ChannelState → ChannelState) :
    (s.modifyCh c f).ingWork = s.ingWork := by cases c <;> rfl
@[simp] theorem modifyCh_wakePhase (s : State) (c : Channel) (f : ChannelState → ChannelState) :
    (s.modifyCh c f).wakePhase = s.wakePhase := by cases c <;> rfl
@[simp] theorem modifyCh_result (s : State) (c : Channel) (f : ChannelState → ChannelState) :
    (s.modifyCh c f).result = s.result := by cases c <;> rfl
@[simp] theorem modifyCh_agenda (s : State) (c : Channel) (f : ChannelState → ChannelState) :
    (s.modifyCh c f).agenda = s.agenda := by cases c <;> rfl
@[simp] theorem modifyCh_tick (s : State) (c : Channel) (f : ChannelState → ChannelState) :
    (s.modifyCh c f).tick = s.tick := by cases c <;> rfl

/-- Two states are equal when their channels and all other fields are. -/
theorem State.ext_ch {s t : State} (hcfg : s.cfg = t.cfg) (hkeys : s.keys = t.keys) (hprev : s.prev = t.prev)
    (hchange : s.change = t.change) (hstart : s.schedStarted = t.schedStarted) (hch : ∀ c, s.ch c = t.ch c)
    (hlog : s.log = t.log) (hing : s.ing = t.ing) (hwork : s.ingWork = t.ingWork) (hphase : s.wakePhase = t.wakePhase)
    (hresult : s.result = t.result) (hagenda : s.agenda = t.agenda) (htick : s.tick = t.tick) : s = t := by
  have hR := hch .R
  have hL := hch .L
  cases s
  cases t
  simp_all

end Sys2Proof.Machine
end

