-- ==== Sys2Proof/Laws/Ops.lean ====
section
/-!
SUPPORT. For each shared operation over the state, what it can do, said once: the channel updates as `modifyCh`, the two
outcomes of each queue read, the conditions, and a step as the operation of its event.
-/

namespace Sys2Proof.Machine

theorem setRxq_eq (s : State) (c : Channel) (q : List Byte) :
    s.setRxq c q = s.modifyCh c fun ch => { ch with rxq := q } := rfl

theorem txWrite_eq (s : State) (c : Channel) (bytes : List Byte) :
    s.txWrite c bytes = s.modifyCh c fun ch => { ch with tx := ch.tx ++ bytes } := rfl

theorem setInit_eq (s : State) (c : Channel) (v : Bool) :
    s.setInit c v = s.modifyCh c fun ch => { ch with init := v } := rfl

theorem setSelPending_eq (s : State) (c : Channel) (v : Bool) :
    s.setSelPending c v = s.modifyCh c fun ch => { ch with selPending := v } := rfl

theorem setCtr_eq (s : State) (c : Channel) (n : Counter) :
    s.setCtr c n = s.modifyCh c fun ch => { ch with ctr := n } := rfl

theorem rxAppend_eq (s : State) (c : Channel) (b : Byte) :
    s.rxAppend c b = s.modifyCh c fun ch => { ch with rxq := ch.rxq ++ [b] } := rfl

/-- `RxPop` of an empty queue. -/
theorem rxPop_of_empty {s : State} {c : Channel} (h : (s.ch c).rxq = []) : s.rxPop c = none := by
  simp [State.rxPop, h]

/-- `RxPop` takes the head of the queue and leaves the rest. -/
theorem rxPop_of_cons {s : State} {c : Channel} {b : Byte} {q : List Byte} (h : (s.ch c).rxq = b :: q) :
    s.rxPop c = some (b, s.setRxq c q) := by
  simp [State.rxPop, h]

/-- All that `RxPop` can answer. -/
theorem rxPop_cases (s : State) (c : Channel) :
    ((s.ch c).rxq = [] ∧ s.rxPop c = none) ∨
      ∃ b q, (s.ch c).rxq = b :: q ∧ s.rxPop c = some (b, s.setRxq c q) := by
  cases h : (s.ch c).rxq with
  | nil => exact .inl ⟨rfl, rxPop_of_empty h⟩
  | cons b q => exact .inr ⟨b, q, rfl, rxPop_of_cons h⟩

/-- All that `IngestNext` can answer. -/
theorem ingestNext_cases (s : State) :
    (s.ing = [] ∧ s.ingestNext = none) ∨
      ∃ f rest, s.ing = f :: rest ∧ s.ingestNext = some (f, { s with ing := rest }) := by
  cases h : s.ing with
  | nil => exact .inl ⟨rfl, by simp [State.ingestNext, h]⟩
  | cons f rest => exact .inr ⟨f, rest, rfl, by simp [State.ingestNext, h]⟩

theorem takeCondition_malformedIngest (s : State) :
    s.takeCondition .malformedIngest = { s with log := s.log ++ [⟨.warn, .malformedIngest⟩] } := rfl

theorem takeCondition_errstat (s : State) (c : Channel) :
    s.takeCondition (.errstat c) =
      { (s.modifyCh c fun ch => { ch with init := false }) with log := s.log ++ [⟨.warn, .errstat⟩] } := by
  cases c <;> rfl

theorem takeCondition_unknownCmd (s : State) (c : Channel) : s.takeCondition (.unknownCmd c) = s := rfl

theorem takeCondition_unknownSel (s : State) (c : Channel) :
    s.takeCondition (.unknownSel c) = s.modifyCh c fun ch => { ch with selPending := false } := rfl

/-- The shape shared by SYNCVER, UNITVER, MYST1, MYST2 and START. -/
theorem answer_eq (c : Channel) (v : Bool) (response : List Byte) (s : State) :
    answer c v response s = s.modifyCh c fun ch => { ch with init := v, tx := ch.tx ++ response } := by
  simp [answer, setInit_eq, txWrite_eq]

/-- Choosing the next event changes the schedule and the counter of free events, nothing else. -/
theorem nextEvent_snd (s : State) :
    ∃ agenda tick, (nextEvent s).2 = { s with agenda := agenda, tick := tick } := by
  cases h : s.agenda with
  | nil => exact ⟨[], s.tick + 1, by simp [nextEvent, h]⟩
  | cons e rest => exact ⟨rest, s.tick, by simp [nextEvent, h]⟩

/-- All that a step can be: an agent's operation on the state with the event taken off, or an environment action. -/
theorem step_cases (s : State) :
    (∃ c, (nextEvent s).1 = .poll c ∧ step s = .next (runPoll c (nextEvent s).2)) ∨
    ((nextEvent s).1 = .wake ∧ step s = .next (runWake (nextEvent s).2)) ∨
    ((nextEvent s).1 = .ingest ∧ step s = .next (runIngest (nextEvent s).2)) ∨
    (∃ c b, (nextEvent s).1 = .rx c b ∧ step s = .next ((nextEvent s).2.rxAppend c b)) ∨
    (∃ f, (nextEvent s).1 = .offer f ∧ step s = .next ((nextEvent s).2.offerFrame f)) ∨
    ((nextEvent s).1 = .reset ∧ step s = .next (nextEvent s).2.hardReset) := by
  cases h : (nextEvent s).1 <;>
    simp [step, h, agentInstr, environment, exec, execPoll, execWake, execIngest]

/-- A run of no step. -/
theorem run_zero (s : State) : core.run 0 s = .next s := rfl

/-- A run's first step. -/
theorem run_succ {s t : State} (n : Nat) (h : step s = .next t) : core.run (n + 1) s = core.run n t := by
  have h' : core.step s = .next t := h
  simp only [Host.Core.run, h']

end Sys2Proof.Machine
end

