-- ==== Sys2Proof/Laws/Protocol.lean ====
section
/-!
SUPPORT. All that a command, a dispatch and a poll can do, said once.
-/

namespace Sys2Proof.Machine

/-- The meaning of a command row is its state change. -/
theorem exec_command (c : Channel) (cmd : Command) (s : State) : exec (cmd.instr c) s = .next (runCommand c cmd s) := by
  cases cmd <;> rfl

/-- A command sets the two flags of its channel, appends to its transmit stream and to the log, and may start the transmit
path; what it does there depends on the ROM, the command and the two flags alone. -/
theorem runCommand_effect (c : Channel) (cmd : Command) (rom : Rom) (i p : Bool) :
    ∃ (i' p' started : Bool) (out : List Byte) (records : List LogRecord),
      ∀ s : State, s.cfg.rom = rom → (s.ch c).init = i → (s.ch c).selPending = p →
        runCommand c cmd s =
          { (s.modifyCh c fun ch => { ch with init := i', selPending := p', tx := ch.tx ++ out }) with
            schedStarted := s.schedStarted || started
            log := s.log ++ records } := by
  cases cmd with
  | syncver =>
    refine ⟨false, p, false, rspSyncver rom, [], ?_⟩
    rintro s rfl rfl rfl
    cases c <;> simp [runCommand, runSyncver, answer_eq, State.modifyCh]
  | nextread =>
    refine ⟨false, true, false, [], [], ?_⟩
    rintro s rfl rfl rfl
    cases c <;> simp [runCommand, runNextread, setInit_eq, setSelPending_eq, State.modifyCh]
  | nextreadSel sel =>
    cases h : selectTable rom sel with
    | none =>
      refine ⟨i, false, false, [], [], ?_⟩
      rintro s rfl rfl rfl
      cases c <;> simp [runCommand, runNextreadSel, h, takeCondition_unknownSel, State.modifyCh]
    | some table =>
      refine ⟨i, false, false, rspNextread table, [], ?_⟩
      rintro s rfl rfl rfl
      cases c <;> simp [runCommand, runNextreadSel, h, setSelPending_eq, txWrite_eq, State.modifyCh]
  | unitver =>
    refine ⟨false, p, false, rspUnitver rom c, [], ?_⟩
    rintro s rfl rfl rfl
    cases c <;> simp [runCommand, runUnitver, answer_eq, State.modifyCh]
  | myst1 =>
    refine ⟨false, p, false, rom.payMyst1.toList, [], ?_⟩
    rintro s rfl rfl rfl
    cases c <;> simp [runCommand, runMyst1, answer_eq, State.modifyCh]
  | myst2 =>
    refine ⟨false, p, false, rom.payMyst2.toList, [], ?_⟩
    rintro s rfl rfl rfl
    cases c <;> simp [runCommand, runMyst2, answer_eq, State.modifyCh]
  | start =>
    refine ⟨true, p, true, rom.payStart.toList, [], ?_⟩
    rintro s rfl rfl rfl
    cases c <;> simp [runCommand, runStart, answer_eq, State.modifyCh]
  | errstat =>
    refine ⟨false, p, false, [], [⟨.warn, .errstat⟩], ?_⟩
    rintro s rfl rfl rfl
    cases c <;> simp [runCommand, runErrstat, takeCondition_errstat, State.modifyCh]
  | other b =>
    refine ⟨i, p, false, [], [], ?_⟩
    rintro s rfl rfl rfl
    cases c <;> simp [runCommand, runOther, takeCondition_unknownCmd, State.modifyCh]

/-- A dispatched byte leaves the dispatcher waiting just when it was an opcode and that of next-read. -/
theorem selPending_runDispatch (c : Channel) (b : Byte) (s : State) :
    ((runDispatch c b s).ch c).selPending = (!(s.ch c).selPending && decide (b = s.cfg.rom.cmdNextread)) := by
  have hn := s.cfg.rom.codes_nodup
  simp only [RomData.codes, List.nodup_cons, List.mem_cons, List.not_mem_nil, or_false, not_or] at hn
  unfold runDispatch decodeByte
  cases hp : (s.ch c).selPending
  · simp only [Bool.false_eq_true, if_false, decodeOpcode]
    repeat' split
    all_goals
      simp_all [runCommand, runSyncver, runNextread, runUnitver, runMyst1, runMyst2, runStart, runErrstat, runOther,
        answer_eq, takeCondition_errstat, takeCondition_unknownCmd, setInit_eq, setSelPending_eq]
    all_goals exact fun h => by simp_all
  · simp only [if_true, runCommand, runNextreadSel]
    split <;> simp [takeCondition_unknownSel, setSelPending_eq, txWrite_eq]

end Sys2Proof.Machine
end

