-- ==== Sys2Proof/Laws/Agents.lean ====
section
/-!
SUPPORT. All that a step of each agent can do, said once: POLL, SEND, WAKE and INGEST case by case.
-/

namespace Sys2Proof.Machine

/-- What `SEND` does to a channel's state. -/
def sentOn (s : State) (c : Channel) (ch : ChannelState) : ChannelState :=
  if ch.init then { ch with ctr := ch.ctr + 1, tx := ch.tx ++ sentFrame s.keys c ch.ctr } else ch

theorem sentOn_init (s : State) (c : Channel) (ch : ChannelState) : (sentOn s c ch).init = ch.init := by
  unfold sentOn; split <;> rfl

theorem sentOn_selPending (s : State) (c : Channel) (ch : ChannelState) :
    (sentOn s c ch).selPending = ch.selPending := by
  unfold sentOn; split <;> rfl

theorem sentOn_rxq (s : State) (c : Channel) (ch : ChannelState) : (sentOn s c ch).rxq = ch.rxq := by
  unfold sentOn; split <;> rfl

/-- SEND changes one channel. -/
theorem runSend_eq (c : Channel) (s : State) : runSend c s = s.modifyCh c (sentOn s c) := by
  unfold runSend sentOn
  cases c <;> simp only [ch_R, ch_L, State.modifyCh] <;> split <;>
    simp_all [setCtr_eq, txWrite_eq, sentFrame, buildFrame, State.modifyCh]

/-- All that WAKE can do: nothing, the whole wake, or one of the three parts of a split one. -/
theorem runWake_cases (s : State) :
    (s.schedStarted = false ∧ runWake s = s) ∨
    s.schedStarted = true ∧
      ((s.cfg.wakeAtomic = true ∧
          runWake s = { s with change := false, chR := sentOn s .R s.chR, chL := sentOn s .L s.chL }) ∨
        (s.cfg.wakeAtomic = false ∧ s.wakePhase = .idle ∧
          runWake s = { s with change := false, wakePhase := .sendR }) ∨
        (s.cfg.wakeAtomic = false ∧ s.wakePhase = .sendR ∧
          runWake s = { s with chR := sentOn s .R s.chR, wakePhase := .sendL }) ∨
        (s.cfg.wakeAtomic = false ∧ s.wakePhase = .sendL ∧
          runWake s = { s with chL := sentOn s .L s.chL, wakePhase := .idle })) := by
  cases h1 : s.schedStarted <;> cases h2 : s.cfg.wakeAtomic <;> cases h3 : s.wakePhase <;>
    simp [runWake, h1, h2, h3, runWholeWake, runWakePart, runSend_eq, State.modifyCh, sentOn]

/-- All that POLL can do: nothing, one dispatch, or the command byte of next-read and then its selector. -/
theorem runPoll_cases (c : Channel) (s : State) :
    ((s.ch c).rxq = [] ∧ runPoll c s = s) ∨
    ∃ b q, (s.ch c).rxq = b :: q ∧
      (((s.ch c).selPending = true ∨ b ≠ s.cfg.rom.cmdNextread) ∧
          runPoll c s = drain c (runDispatch c b (s.setRxq c q)) ∨
        ((s.ch c).selPending = false ∧ b = s.cfg.rom.cmdNextread) ∧
          runPoll c s = drain c (takeSelector c (runDispatch c b (s.setRxq c q)))) := by
  obtain ⟨h, hp⟩ | ⟨b, q, h, hp⟩ := rxPop_cases s c
  · exact .inl ⟨h, by simp [runPoll, hp]⟩
  · refine .inr ⟨b, q, h, ?_⟩
    have hs := selPending_runDispatch c b (s.setRxq c q)
    simp only [setRxq_eq, ch_modifyCh_self, modifyCh_cfg] at hs
    cases hw : (s.ch c).selPending <;> by_cases hb : b = s.cfg.rom.cmdNextread <;>
      simp [hw, hb] at hs <;> simp [runPoll, hp, setRxq_eq, hs, hw, hb]

/-- All that INGEST can do: go on with a frame in progress, idle, or take the oldest frame by its class. -/
theorem runIngest_cases (s : State) :
    (∃ w, s.ingWork = some w ∧ runIngest s = continueBitmap w s) ∨
    (s.ingWork = none ∧ s.ing = [] ∧ runIngest s = s) ∨
    ∃ f rest, s.ingWork = none ∧ s.ing = f :: rest ∧
      ((f = [Param.resetByte] ∧ runIngest s = runIngReset { s with ing := rest }) ∨
        (∃ g : RawFrame, f = g.toList ∧
          (s.cfg.ingestAtomic = true ∧ runIngest s = runIngBitmap g { s with ing := rest } ∨
            s.cfg.ingestAtomic = false ∧ runIngest s = beginBitmap g { s with ing := rest })) ∨
        (isMalformedFrame f = true ∧ runIngest s = runIngMalformed f { s with ing := rest })) := by
  cases hw : s.ingWork with
  | some w => exact .inl ⟨w, rfl, by simp [runIngest, hw]⟩
  | none =>
    obtain ⟨h, hn⟩ | ⟨f, rest, h, hn⟩ := ingestNext_cases s
    · exact .inr (.inl ⟨rfl, h, by simp [runIngest, hw, hn]⟩)
    · refine .inr (.inr ⟨f, rest, rfl, h, ?_⟩)
      by_cases hr : f = [Param.resetByte]
      · exact .inl ⟨hr, by subst hr; simp only [runIngest, hw, hn, classifyFrame_reset]⟩
      · by_cases hl : f.length = Param.rawLen
        · have hg : f = Vector.toList ⟨f.toArray, by simpa using hl⟩ := by simp [Vector.toList]
          refine .inr (.inl ⟨_, hg, ?_⟩)
          have hc := classifyFrame_bitmap ⟨f.toArray, by simpa using hl⟩
          rw [← hg] at hc
          cases ha : s.cfg.ingestAtomic <;> simp [runIngest, hw, hn, hc, ha]
        · have hm : isMalformedFrame f = true := by simp [isMalformedFrame, hr, hl]
          exact .inr (.inr ⟨hm, by simp only [runIngest, hw, hn, classifyFrame_malformed hm]⟩)

end Sys2Proof.Machine
end

