-- ==== Sys2Proof/Laws/Params.lean ====
section
/-!
SUPPORT. The values of the fixed parameters (00_scope.md R5), for arithmetic.
-/

namespace Sys2Proof

@[simp] theorem Param.nKeys_eq : Param.nKeys = 240 := rfl
@[simp] theorem Param.nCh_eq : Param.nCh = 2 := rfl
@[simp] theorem Param.keysPerCh_eq : Param.keysPerCh = 120 := rfl
@[simp] theorem Param.rawLen_eq : Param.rawLen = 30 := rfl
@[simp] theorem Param.frameLen_eq : Param.frameLen = 36 := rfl
@[simp] theorem Param.ctrPos_eq : Param.ctrPos = 34 := rfl
@[simp] theorem Param.ctrMod_eq : Param.ctrMod = 128 := rfl
@[simp] theorem Param.sumPos_eq : Param.sumPos = 35 := rfl
@[simp] theorem Param.group_eq : Param.group = 5 := rfl
@[simp] theorem Param.fill_eq : Param.fill = 3 := rfl
@[simp] theorem Param.offset0_eq : Param.offset0 = 7 := rfl
@[simp] theorem Param.verLen_eq : Param.verLen = 6 := rfl
@[simp] theorem Param.unitReps_eq : Param.unitReps = 6 := rfl
@[simp] theorem Param.nCal_eq : Param.nCal = 3 := rfl
@[simp] theorem Param.shortLen_eq : Param.shortLen = 3 := rfl
@[simp] theorem Param.ctrBits_eq : Param.ctrBits = 7 := rfl
@[simp] theorem Param.packedLen_eq : Param.packedLen = 33 := rfl
@[simp] theorem Param.dataBytes_eq : Param.dataBytes = 24 := rfl
@[simp] theorem Param.firstOffset_eq : Param.firstOffset = 8 := rfl
@[simp] theorem Param.lastOffset_eq : Param.lastOffset = 196 := rfl
@[simp] theorem Param.fillerMask_eq : Param.fillerMask = 0xE0 := rfl

/-- The channels are as many as `N_CH` says, each with its half of the keys. -/
theorem channels_eq_nCh : ∃ cs : List Channel, cs.Nodup ∧ (∀ c, c ∈ cs) ∧ cs.length = Param.nCh ∧
    cs.length * Param.keysPerCh = Param.nKeys :=
  ⟨[.R, .L], by decide, fun c => by cases c <;> decide, rfl, rfl⟩

/-- The counter runs 0..127. -/
theorem counter_lt (n : Counter) : n.toNat < 128 := n.isLt

/-- The counter wraps modulo 128. -/
theorem counter_toNat_add (n m : Counter) : (n + m).toNat = (n.toNat + m.toNat) % 128 := BitVec.toNat_add n m

/-- The successor of a counter value. -/
theorem counter_toNat_succ (n : Counter) : (n + 1).toNat = (n.toNat + 1) % 128 := counter_toNat_add n 1

/-- The counter byte of a frame holds the counter's value. -/
theorem counter_toNat_setWidth (n : Counter) : (n.setWidth 8).toNat = n.toNat := by
  rw [BitVec.toNat_setWidth]
  exact Nat.mod_eq_of_lt (Nat.lt_trans (counter_lt n) (by decide))

/-- The widths of the word types, in numerals. -/
theorem word_types : Keys = BitVec 240 ∧ RawFrame = Vector Byte 30 ∧ Packed = Vector Byte 33 ∧ Counter = BitVec 7 :=
  ⟨rfl, rfl, rfl, rfl⟩

end Sys2Proof
end

