-- ==== Sys2Proof/Laws/Operands.lean ====
section
/-!
SUPPORT. What the bit-level operations do, one lemma each: reading a key, a byte's bit or a packed byte after writing one,
and the change detector.
-/

namespace Sys2Proof.Machine

/-- Read after write of one key. -/
theorem readKey_writeKey (keys : Keys) (k m : Nat) (v : Bool) (hk : k < Param.nKeys) :
    readKey (writeKey keys k v) m = if m = k then v else readKey keys m := by
  unfold readKey writeKey
  by_cases hm : m < 240
  · cases v <;> by_cases h : m = k
    all_goals simp [h, hk, hm]
    all_goals omega
  · have h : m ≠ k := by simp only [Param.nKeys_eq] at hk; omega
    have hw : Param.nKeys ≤ m := by simp only [Param.nKeys_eq]; omega
    rw [if_neg h, BitVec.getLsbD_of_ge _ _ hw, BitVec.getLsbD_of_ge _ _ hw]

/-- Read after write of one bit of a byte. -/
theorem getLsbD_writeBit (b : Byte) (j m : Nat) (v : Bool) (hj : j < 8) :
    (writeBit b j v).getLsbD m = if m = j then v else b.getLsbD m := by
  unfold writeBit
  by_cases hm : m < 8
  · cases v <;> by_cases h : m = j
    all_goals simp [h, hj, hm]
    all_goals omega
  · have h : m ≠ j := by omega
    rw [if_neg h, BitVec.getLsbD_of_ge _ _ (by omega), BitVec.getLsbD_of_ge _ _ (by omega)]

/-- Reading inside a vector needs no default. -/
theorem getD_eq_getElem {n : Nat} (v : Vector Byte n) (i : Nat) (d : Byte) (h : i < n) : v.getD i d = v[i] := by
  simp [Vector.getD, Array.getD, h]

/-- Read after write of one packed byte. -/
theorem packedByte_writePackedByte (p : Packed) (b m : Nat) (v : Byte) (hb : 1 ≤ b ∧ b ≤ 33) (hm : 1 ≤ m ∧ m ≤ 33) :
    packedByte (writePackedByte p b v) m = if m = b then v else packedByte p m := by
  have hb' : b - 1 < 33 := by omega
  have hm' : m - 1 < 33 := by omega
  unfold packedByte writePackedByte
  rw [getD_eq_getElem _ _ _ hm', getD_eq_getElem _ _ _ hm', Vector.getElem_setIfInBounds]
  by_cases h : m = b
  · simp [h]
  · rw [if_neg (by omega), if_neg h]

/-- The change detector compares the two frames key by key. -/
theorem keyChanged_eq (prev f : RawFrame) (k : Nat) : keyChanged prev f k = (keyBit f k != keyBit prev k) := by
  simp [keyChanged, keyBit]

theorem mem_changedKeys {prev f : RawFrame} {k : Nat} :
    k ∈ changedKeys prev f ↔ k < Param.nKeys ∧ keyBit f k ≠ keyBit prev k := by
  simp [changedKeys, keyChanged_eq]

theorem changedKeys_nodup (prev f : RawFrame) : (changedKeys prev f).Nodup :=
  List.nodup_range.filter _

/-- Writing a list of keys from a frame: those keys take the frame's bits, the others stay. -/
theorem readKey_writeKeys (f : RawFrame) (ks : List Nat) (keys : Keys) (m : Nat) (hks : ∀ k ∈ ks, k < Param.nKeys) :
    readKey (writeKeys f ks keys) m = if m ∈ ks then keyBit f m else readKey keys m := by
  induction ks generalizing keys with
  | nil => simp [writeKeys]
  | cons k ks ih =>
    have hk : k < Param.nKeys := hks k (by simp)
    have step := ih (writeKey keys k (keyBit f k)) fun x hx => hks x (by simp [hx])
    simp only [writeKeys, List.foldl_cons] at step ⊢
    rw [step, readKey_writeKey _ _ _ _ hk]
    by_cases h : m = k <;> by_cases h' : m ∈ ks <;> simp [h, h']

/-- A recognised selector chooses its table; the selectors are pairwise distinct (R7). -/
theorem selectTable_of_sel (rom : Rom) (k : Fin Param.nCal) : selectTable rom rom.sel[k] = some rom.cal[k] := by
  have h := rom.sels_nodup
  have hinj : ∀ j : Fin Param.nCal, rom.sel[k] = rom.sel[j] ↔ k = j := fun j => by
    simpa [Fin.ext_iff, RomData.sels] using h.getElem_inj_iff (i := k) (j := j) 
      (hi := by simp [RomData.sels]) (hj := by simp [RomData.sels])
  cases hs : selectTable rom rom.sel[k] with
  | none =>
    have := List.findSome?_eq_none_iff.1 hs k (List.mem_finRange k)
    simp at this
  | some t =>
    obtain ⟨j, -, hj⟩ := List.exists_of_findSome?_eq_some hs
    split at hj
    · rename_i hkj; rw [(hinj j).1 hkj]; exact hj.symm
    · cases hj

/-- An unrecognised selector chooses no table. -/
theorem selectTable_of_not_mem {rom : Rom} {sel : Byte} (h : sel ∉ rom.sels) : selectTable rom sel = none := by
  refine List.findSome?_eq_none_iff.2 fun k _ => if_neg fun hk => h ?_
  rw [hk]
  exact Vector.mem_toList_iff.2 (Vector.getElem_mem k.isLt)

/-- UNMAP in numerals, as R113 writes it. -/
theorem unmap_eq (c : Channel) (off : Nat) :
    unmap c off =
      if off < 8 ∨ 196 < off ∨ 4 < off % 8 then none else some (5 * ((off - 8) / 8) + off % 8 + baseKey c) := rfl

/-- REMAP in numerals, as R110 writes it. -/
theorem remap_eq (k : Nat) :
    remap k = if k + 1 ≤ 120 then (.R, (k + 1) + (k + 1 - 1) / 5 * 3 + 7)
      else (.L, (k + 1 - 120) + (k + 1 - 120 - 1) / 5 * 3 + 7) := by
  unfold remap
  simp only [Param.keysPerCh_eq, Param.group_eq, Param.fill_eq, Param.offset0_eq]
  split <;> rfl

@[simp] theorem baseKey_R : baseKey .R = 0 := rfl
@[simp] theorem baseKey_L : baseKey .L = 120 := rfl

/-- VERIFY of 36 bytes in numerals, as R119 writes it. -/
theorem verify_of_length {s : List Byte} (h : s.length = 36) :
    verify s =
      { lenOk := true
        hdrOk := s.getD 0 0 == 129
        sumOk := s.getD 35 0 == checksum s 35
        layoutOk := decide ((s.getD 34 0).toNat < 128) && ((List.range 24).all fun t => s.getD (t + 1) 0 &&& 0xE0 == 0) &&
          ((List.range 9).all fun t => s.getD (t + 25) 0 == 0) } := by
  simp only [verify, Param.frameLen_eq, h, ne_eq, not_true_eq_false, if_false]
  rfl

/-- VERIFY of any other length. -/
theorem verify_of_length_ne {s : List Byte} (h : s.length ≠ 36) : verify s = ⟨false, false, false, false⟩ :=
  if_pos h

/-- SETKEY of an offset inside `P[1..33]` writes the bit it names. -/
theorem setkey_of_mem (p : Packed) (off : Nat) (v : Bool) (h : 8 ≤ off ∧ off < 272) :
    setkey p off v = setPackedBit p off v :=
  if_pos h

/-- PACK starts from 33 zero bytes. -/
theorem pack_eq (keys : Keys) (c : Channel) :
    pack keys c =
      (channelKeys c).foldl (fun p k => if readKey keys k then setPackedBit p (remap k).2 true else p)
        (Vector.replicate 33 0) := rfl

/-- Reading a raw frame inside its 30 bytes. -/
theorem rawFrame_getD (f : RawFrame) (i : Nat) (h : i < 30) : f.getD i 0 = f[i]'h := getD_eq_getElem f i 0 h

/-- Reading packed bytes inside `P[1..33]`. -/
theorem packedByte_eq (p : Packed) (b : Nat) (h : 1 ≤ b ∧ b ≤ 33) :
    packedByte p b = p[b - 1]'(show b - 1 < 33 by omega) :=
  getD_eq_getElem p _ 0 (show b - 1 < 33 by omega)

theorem checksum_nil (n : Nat) : checksum [] n = 0 := by simp [checksum]

/-- Folding XOR from a start value is XOR with the fold from 0. -/
theorem foldl_xor (s : List Byte) (x : Byte) : s.foldl (· ^^^ ·) x = x ^^^ s.foldl (· ^^^ ·) 0 := by
  induction s generalizing x with
  | nil => simp
  | cons b s ih => simp only [List.foldl_cons]; rw [ih, ih (0 ^^^ b)]; simp [BitVec.xor_assoc]

/-- A ChannelFrame has 36 bytes. -/
theorem buildFrame_length (p : Packed) (n : Counter) : (buildFrame p n).1.length = Param.frameLen := by
  simp [buildFrame]

end Sys2Proof.Machine
end

