-- ==== Sys2Proof/Laws/PerInstr.lean ====
section
/-!
SUPPORT. Statements made of every instruction, one lemma per constructor of `Instr`.
-/

namespace Sys2Proof.Laws.ChannelUnitIsOneByte

/-- R81, R83: what an operation takes from a channel in one decode is exactly one byte (next-read takes its selector in a
decode of its own). -/
def Statement (i : Instr) : Prop :=
  ∀ (rom : Rom) (u : InboundUnit) (c : Channel), encode rom i = some u → u.port = .rx c → u.bytes.length = 1

theorem syncver (c : Channel) : Statement (.syncver c) := by rintro rom u d ⟨⟩ -; rfl
theorem nextread (c : Channel) : Statement (.nextread c) := by rintro rom u d ⟨⟩ -; rfl
theorem nextreadSel (c : Channel) (sel : Byte) : Statement (.nextreadSel c sel) := by rintro rom u d ⟨⟩ -; rfl
theorem unitver (c : Channel) : Statement (.unitver c) := by rintro rom u d ⟨⟩ -; rfl
theorem myst1 (c : Channel) : Statement (.myst1 c) := by rintro rom u d ⟨⟩ -; rfl
theorem myst2 (c : Channel) : Statement (.myst2 c) := by rintro rom u d ⟨⟩ -; rfl
theorem start (c : Channel) : Statement (.start c) := by rintro rom u d ⟨⟩ -; rfl
theorem errstat (c : Channel) : Statement (.errstat c) := by rintro rom u d ⟨⟩ -; rfl
theorem other (c : Channel) (b : Byte) : Statement (.other c b) := by rintro rom u d ⟨⟩ -; rfl
theorem ingReset : Statement .ingReset := by rintro rom u d ⟨⟩ ⟨⟩
theorem ingBitmap (f : RawFrame) : Statement (.ingBitmap f) := by rintro rom u d ⟨⟩ ⟨⟩
theorem ingMalformed (f : List Byte) : Statement (.ingMalformed f) := by rintro rom u d ⟨⟩ ⟨⟩
theorem remap (k : Nat) : Statement (.remap k) := by rintro rom u d ⟨⟩
theorem unmap (c : Channel) (off : Nat) : Statement (.unmap c off) := by rintro rom u d ⟨⟩
theorem pack (c : Channel) : Statement (.pack c) := by rintro rom u d ⟨⟩
theorem setkey (p : Packed) (off : Nat) (v : Bool) : Statement (.setkey p off v) := by rintro rom u d ⟨⟩
theorem checksum (s : List Byte) (n : Nat) : Statement (.checksum s n) := by rintro rom u d ⟨⟩
theorem buildframe (p : Packed) (n : Counter) : Statement (.buildframe p n) := by rintro rom u d ⟨⟩
theorem verify (s : List Byte) : Statement (.verify s) := by rintro rom u d ⟨⟩
theorem dispatch (c : Channel) (b : Byte) : Statement (.dispatch c b) := by rintro rom u d ⟨⟩
theorem poll (c : Channel) : Statement (.poll c) := by rintro rom u d ⟨⟩
theorem wake : Statement .wake := by rintro rom u d ⟨⟩
theorem send (c : Channel) : Statement (.send c) := by rintro rom u d ⟨⟩
theorem ingest : Statement .ingest := by rintro rom u d ⟨⟩

end Sys2Proof.Laws.ChannelUnitIsOneByte
end

