-- ==== Sys2Proof/Tests/Slice0.lean ====
section
/-!
SUPPORT. The model's own tests. Expected values come from spec/: the vectors and programs of 95_test_vectors.md with its
EXAMPLE_ROM (which is not the hardware's ROM), or hand calculation from the rule named. Then, for each statement with
hypotheses, concrete states and operands that meet them.
-/

open Sys2Proof Sys2Proof.Machine

namespace Sys2Proof.Tests

/-! ## Helpers -/

/-- EXAMPLE_ROM (95_test_vectors.md, section 0). -/
def exampleData : RomData where
  cmdSyncver := 0xA0
  cmdNextread := 0x72
  cmdUnitver := 0xA8
  cmdMyst1 := 0xA2
  cmdMyst2 := 0x94
  cmdStart := 0xC9
  syncVer := #v[0x31, 0x39, 0x30, 0x35, 0x32, 0x33]
  unitVer := #v[0x31, 0x39, 0x30, 0x35, 0x31, 0x34]
  sideR := 0x52
  sideL := 0x4C
  unitSumR := 0x76
  unitSumL := 0x68
  sel := #v[0x30, 0x31, 0x33]
  cal := #v[[0x01, 0x02, 0x03, 0x04], [0x10, 0x20, 0x30, 0x07], [0xFF, 0x0F]]
  payMyst1 := #v[0xA2, 0x3F, 0x1D]
  payMyst2 := #v[0x94, 0x00, 0x14]
  payStart := #v[0xC9, 0x00, 0x49]

/-- EXAMPLE_ROM meets R7. -/
def exampleRom : Rom := { toRomData := exampleData, wf := by decide }

/-- The decided switches, with a value for `RESET_CLEARS_PREV`. -/
def config (resetClearsPrev : Bool) : Config where
  rom := exampleRom
  resetClearsPrev := resetClearsPrev
  rxDrain := false
  ingestAtomic := true
  wakeAtomic := true

/-- The reset state with EXAMPLE_ROM. -/
def start : State := State.resetWith (config false)

/-- The reset state with other switches. -/
def startWith (resetClearsPrev rxDrain ingestAtomic wakeAtomic : Bool) : State :=
  State.resetWith { config resetClearsPrev with
    rxDrain := rxDrain, ingestAtomic := ingestAtomic, wakeAtomic := wakeAtomic }

/-- A channel in Scanning with a counter value. -/
def scanning (n : Counter) : ChannelState := { ChannelState.reset with init := true, ctr := n }

/-- A channel in Uninitialized with a receive queue. -/
def queued (q : List Byte) : ChannelState := { ChannelState.reset with rxq := q }

/-- A channel that waits for a selector, with a receive queue. -/
def waiting (q : List Byte) : ChannelState := { ChannelState.reset with selPending := true, rxq := q }

/-- The bitmap with exactly these keys set. -/
def keysOf (ks : List Nat) : Keys := ks.foldl (fun acc k => acc ||| (1#240 <<< k)) 0

/-- A raw frame of a given first byte, all other bytes 0. -/
def rawOf (b : Byte) : RawFrame := (Vector.replicate 30 0).set 0 b

/-- What a function of the next state gives, where there is one. -/
def after {α : Type} (o : Host.Outcome State Fault Refusal) (f : State → α) : Option α :=
  match o with
  | .next t => some (f t)
  | .fault _ => none
  | .refused _ => none

/-- The refusal an operation ends in, where it ends in one. -/
def refusal (o : Host.Outcome State Fault Refusal) : Option Refusal :=
  match o with
  | .next _ => none
  | .fault _ => none
  | .refused r => some r

/-- What the decoder reads from an inbound unit under EXAMPLE_ROM. -/
def decoded (u : InboundUnit) : Option (Instr × List Byte) :=
  match decode exampleRom u with
  | .ok r => some r
  | .error _ => none

/-! ## The fixed parameters: the rows of R5, and the sizes R26, R90, R112 and R115 give -/

theorem test_fixed_parameters :
    fixedParams = ⟨240, 2, 120, 30, 71, 36, 129, 34, 128, 35, 5, 3, 7, 154, 0x2C, 6, 6, 3, 16, 3, 16, 1000⟩ ∧
    Param.ctrBits = 7 ∧ Param.packedLen = 33 ∧ Param.dataBytes = 24 ∧ Param.firstOffset = 8 ∧
    Param.lastOffset = 196 ∧ Param.fillerMask = 0xE0 := by decide

/-! ## Well-formedness: each check refuses a term that breaks it -/

theorem test_wf_other_refuses_a_rom_code : Instr.wf exampleRom (.other .R 0xC9) = false := by decide
theorem test_wf_other_refuses_154 : Instr.wf exampleRom (.other .L 154) = false := by decide
theorem test_wf_malformed_refuses_reset_signal : Instr.wf exampleRom (.ingMalformed [71]) = false := by decide
theorem test_wf_malformed_refuses_30_bytes : Instr.wf exampleRom (.ingMalformed (List.replicate 30 0)) = false := by decide
theorem test_wf_remap_refuses_240 : Instr.wf exampleRom (.remap 240) = false := by decide
theorem test_wf_checksum_refuses_longer : Instr.wf exampleRom (.checksum [0x81, 1, 1] 4) = false := by decide
theorem test_wf_rom_refuses_equal_codes : RomData.wf { exampleData with cmdStart := 0xA0 } = false := by decide
theorem test_wf_rom_refuses_code_154 : RomData.wf { exampleData with cmdMyst1 := 154 } = false := by decide
theorem test_wf_rom_refuses_equal_selectors : RomData.wf { exampleData with sel := #v[0x30, 0x31, 0x30] } = false := by decide
theorem test_wf_rom_refuses_equal_sides : RomData.wf { exampleData with sideL := 0x52 } = false := by decide
theorem test_wf_rom_refuses_equal_payloads :
    RomData.wf { exampleData with payMyst2 := #v[0xA2, 0x3F, 0x1D] } = false := by decide
theorem test_wf_accepts_boundaries :
    Instr.wf exampleRom (.remap 239) = true ∧ Instr.wf exampleRom (.setkey (Vector.replicate 33 0) 7 true) = true ∧
    Instr.wf exampleRom (.setkey (Vector.replicate 33 0) 272 true) = true ∧
    Instr.wf exampleRom (.checksum [] 0) = true ∧ Instr.wf exampleRom (.other .R 0x00) = true ∧
    Instr.wf exampleRom (.ingMalformed []) = true := by decide

/-! ## Decoding: words written out from 30_encoding.md R82, R83, R85, R94 -/

theorem test_decode_syncver : decoded ⟨.rx .R, false, [0xA0]⟩ = some (.syncver .R, []) := by decide
theorem test_decode_nextread : decoded ⟨.rx .L, false, [0x72, 0x31]⟩ = some (.nextread .L, [0x31]) := by decide
theorem test_decode_selector : decoded ⟨.rx .L, true, [0x31]⟩ = some (.nextreadSel .L 0x31, []) := by decide
/-- R83: a pending selector is tested before the opcode. -/
theorem test_decode_selector_equal_to_a_code :
    decoded ⟨.rx .L, true, [0xC9]⟩ = some (.nextreadSel .L 0xC9, []) := by decide
theorem test_decode_unitver : decoded ⟨.rx .R, false, [0xA8]⟩ = some (.unitver .R, []) := by decide
theorem test_decode_myst1 : decoded ⟨.rx .R, false, [0xA2]⟩ = some (.myst1 .R, []) := by decide
theorem test_decode_myst2 : decoded ⟨.rx .R, false, [0x94]⟩ = some (.myst2 .R, []) := by decide
theorem test_decode_start : decoded ⟨.rx .R, false, [0xC9, 0x00]⟩ = some (.start .R, [0x00]) := by decide
theorem test_decode_errstat : decoded ⟨.rx .R, false, [0x9A]⟩ = some (.errstat .R, []) := by decide
theorem test_decode_other : decoded ⟨.rx .R, false, [0x00]⟩ = some (.other .R 0x00, []) := by decide
theorem test_decode_empty_channel : decoded ⟨.rx .R, false, []⟩ = none := by decide
theorem test_decode_reset_signal : decoded ⟨.ing, false, [0x47]⟩ = some (.ingReset, []) := by decide
/-- R211: 30 bytes are bitmap data whatever the first byte. -/
theorem test_decode_bitmap :
    decoded ⟨.ing, false, 0x47 :: List.replicate 29 0⟩ = some (.ingBitmap (rawOf 0x47), []) := by decide
theorem test_decode_lower_case_g : decoded ⟨.ing, false, [0x67]⟩ = some (.ingMalformed [0x67], []) := by decide
theorem test_decode_29_bytes :
    decoded ⟨.ing, false, List.replicate 29 0⟩ = some (.ingMalformed (List.replicate 29 0), []) := by decide
theorem test_decode_31_bytes :
    decoded ⟨.ing, false, List.replicate 31 0⟩ = some (.ingMalformed (List.replicate 31 0), []) := by decide
/-- The two rows of spec/opcode_table.json with a numeric match. -/
theorem test_decode_table_words :
    decodeTableWord 8 0x9A = some (.errstat .R) ∧ decodeTableWord 8 0x47 = some .ingReset := by decide
/-- A 30-byte frame as a table word: byte 0 is the least significant. -/
theorem test_decode_table_bitmap : decodeTableWord 240 0x47 = some (.ingBitmap (rawOf 0x47)) := by decide

/-! ## Encoding: the words of a well-formed operation -/

theorem test_encode_internal_operation_has_no_word : encode exampleRom .wake = none := by decide
theorem test_encode_start : encode exampleRom (.start .L) = some ⟨.rx .L, false, [0xC9]⟩ := by decide

/-! ## PacketCodec: vectors of 95_test_vectors.md 2.1 to 2.5 -/

theorem test_remap_first_group_boundary :
    after (exec (.remap 5) start) (·.result) = some (.remap .R 16) := by decide
theorem test_remap_last_key : after (exec (.remap 239) start) (·.result) = some (.remap .L 196) := by decide
theorem test_remap_table_rows :
    remap 0 = (.R, 8) ∧ remap 4 = (.R, 12) ∧ remap 7 = (.R, 18) ∧ remap 59 = (.R, 100) ∧ remap 60 = (.R, 104) ∧
    remap 119 = (.R, 196) ∧ remap 120 = (.L, 8) ∧ remap 125 = (.L, 16) := by decide
theorem test_remap_refuses_240 : refusal (exec (.remap 240) start) = some .keyOutOfRange := by decide
theorem test_unmap_key : after (exec (.unmap .L 16) start) (·.result) = some (.unmap (some 125)) := by decide
theorem test_unmap_off_keys :
    [0, 7, 13, 14, 15, 197, 200, 272].map (unmap .R) = List.replicate 8 none := by decide
/-- Row `{7,119}`, `R`: `00 04 00×21 10 00×9`. -/
theorem test_pack_right :
    after (exec (.pack .R) { start with keys := keysOf [7, 119] }) (·.result) =
      some (.packed (((Vector.replicate 33 0).set 1 0x04).set 23 0x10)) := by decide +kernel
/-- Row `{0,1,2,3,4}`: `1F 00×32` on `R`, nothing on `L`. -/
theorem test_pack_other_channel_has_no_effect :
    pack (keysOf [0, 1, 2, 3, 4]) .R = (Vector.replicate 33 0).set 0 0x1F ∧
    pack (keysOf [0, 1, 2, 3, 4]) .L = Vector.replicate 33 0 := by decide +kernel
/-- R123 on offset 16: bit 0 of `P[2]`. -/
theorem test_setkey_sets_and_clears :
    after (exec (.setkey (Vector.replicate 33 0) 16 true) start) (·.result) =
      some (.packed ((Vector.replicate 33 0).set 1 0x01)) ∧
    after (exec (.setkey (Vector.replicate 33 0xFF) 16 false) start) (·.result) =
      some (.packed ((Vector.replicate 33 0xFF).set 1 0xFE)) := by decide
/-- An offset outside `P[1..33]`, before it (7) and behind it (272): SETKEY runs, and nothing but the codec output changes. -/
theorem test_setkey_runs_outside_packed :
    [7, 272].map (fun off => after (exec (.setkey (Vector.replicate 33 0) off true) start) ({ · with result := .nothing })) =
      [some start, some start] := by decide
theorem test_checksum_rows :
    checksum [] 0 = 0x00 ∧ checksum [0x81, 0x01, 0x01] 3 = 0x81 ∧ checksum [0x81, 0x01, 0x01] 2 = 0x80 ∧
    checksum [0xFF, 0x0F] 2 = 0xF0 ∧ checksum [0xA0, 0x31, 0x39, 0x30, 0x35, 0x32, 0x33] 7 = 0xAC := by decide
theorem test_checksum_refuses_longer :
    refusal (exec (.checksum [0x81, 0x01, 0x01] 4) start) = some .checksumTooLong := by decide
/-- Row none, 127: `81 00×33 00 81`, next counter 0. -/
theorem test_buildframe_wraps :
    after (exec (.buildframe (Vector.replicate 33 0) 127) start) (·.result) =
      some (.frame (0x81 :: (List.replicate 33 0 ++ [0x00, 0x81])) 0) := by decide
/-- Row `{239}`, `L`, 126: `81 00×23 10 00×9 7F EE`. -/
theorem test_buildframe_of_last_key :
    sentFrame (keysOf [239]) .L 126 =
      0x81 :: (List.replicate 23 0 ++ [0x10] ++ List.replicate 9 0 ++ [0x7F, 0xEE]) := by decide +kernel
/-- Rows `81 00×33 01 80` and `81 00×33 01 81`. -/
theorem test_verify_rows :
    verify (0x81 :: (List.replicate 33 0 ++ [0x01, 0x80])) = ⟨true, true, true, true⟩ ∧
    verify (0x81 :: (List.replicate 33 0 ++ [0x01, 0x81])) = ⟨true, true, false, true⟩ := by decide
/-- R119's corner case: 36 zero bytes fail only the header. A short string fails everything. -/
theorem test_verify_zero_and_short :
    after (exec (.verify (List.replicate 36 0)) start) (·.result) = some (.verdict ⟨true, false, true, true⟩) ∧
    after (exec (.verify (List.replicate 35 0)) start) (·.result) = some (.verdict ⟨false, false, false, false⟩) := by
  decide

/-! ## ChannelProtocol: program P1, P3 and vectors 2.6 -/

theorem test_syncver_response :
    after (exec (.syncver .R) { start with chR := scanning 3 }) (fun t => (t.chR.init, t.chR.ctr, t.chR.tx)) =
      some (false, 3, [0xA0, 0x31, 0x39, 0x30, 0x35, 0x32, 0x33, 0x2C]) := by decide
theorem test_unitver_response :
    after (exec (.unitver .L) start) (fun t => (t.chL.tx.take 8, t.chL.tx.drop 38)) =
      some ([0xA8, 0x31, 0x39, 0x30, 0x35, 0x32, 0x33, 0x4C], [0x31, 0x39, 0x30, 0x35, 0x31, 0x34, 0x68]) := by decide
theorem test_nextread_waits :
    after (exec (.nextread .L) { start with chL := scanning 0 }) (fun t => (t.chL.init, t.chL.selPending, t.chL.tx)) =
      some (false, true, []) := by decide
theorem test_selector_known :
    after (exec (.nextreadSel .L 0x31) { start with chL := waiting [] }) (fun t => (t.chL.selPending, t.chL.tx)) =
      some (false, [0x10, 0x20, 0x30, 0x07, 0x07]) := by decide
/-- R153: a selector equal to `CMD_START` has none of its effects. -/
theorem test_selector_unknown :
    after (exec (.nextreadSel .L 0xC9) { start with chL := waiting [] })
      (fun t => (t.chL.selPending, t.chL.init, t.chL.tx, t.log)) = some (false, false, [], []) := by decide
theorem test_myst1_payload :
    after (exec (.myst1 .R) start) (fun t => t.chR.tx) = some [0xA2, 0x3F, 0x1D] := by decide
theorem test_myst2_payload :
    after (exec (.myst2 .L) start) (fun t => t.chL.tx) = some [0x94, 0x00, 0x14] := by decide
theorem test_start_on_one_channel :
    after (exec (.start .R) start) (fun t => (t.chR.init, t.chR.tx, t.schedStarted, t.chL.init)) =
      some (true, [0xC9, 0x00, 0x49], true, false) := by decide
theorem test_errstat_warns :
    after (exec (.errstat .L) { start with chL := scanning 1 }) (fun t => (t.chL.init, t.chL.tx, t.log)) =
      some (false, [], [⟨.warn, .errstat⟩]) := by decide
theorem test_other_keeps_scanning :
    after (exec (.other .R 0x00) { start with chR := scanning 1 }) (fun t => (t.chR.init, t.log)) =
      some (true, []) := by decide
theorem test_dispatch_start_byte :
    after (exec (.dispatch .L 0xC9) start) (fun t => (t.chL.init, t.chL.tx)) = some (true, [0xC9, 0x00, 0x49]) := by
  decide
/-- R230: a pending selector takes precedence over 154. -/
theorem test_dispatch_pending_selector_first :
    after (exec (.dispatch .L 0x9A) { start with chL := waiting [] }) (fun t => (t.chL.selPending, t.log)) =
      some (false, []) := by decide

/-! ## Poller: program P3, step 4, under both values of `RX_DRAIN` -/

theorem test_poll_selector_leaves_the_rest :
    after (exec (.poll .L) { start with chL := waiting [0x31, 0x00, 0x9A] })
      (fun t => (t.chL.rxq, t.chL.tx)) = some ([0x00, 0x9A], [0x10, 0x20, 0x30, 0x07, 0x07]) := by decide
theorem test_poll_drains :
    after (exec (.poll .L) { startWith false true true true with chL := queued [0x72, 0x31, 0x00, 0x9A] })
      (fun t => (t.chL.rxq, t.chL.tx)) = some ([], [0x10, 0x20, 0x30, 0x07, 0x07]) := by decide

/-! ## SendScheduler: vectors 2.8 -/

/-- `ctr = (2, 1)`, keys `{0,125}`: the two frames of one wake. -/
theorem test_wake_sends_on_both_channels :
    after (exec .wake { start with
        keys := keysOf [0, 125], change := true, schedStarted := true, chR := scanning 2, chL := scanning 1 })
      (fun t => (t.chR.tx, t.chL.tx, t.change)) =
      some (0x81 :: 0x01 :: (List.replicate 32 0 ++ [0x03, 0x83]),
        0x81 :: 0x00 :: 0x01 :: (List.replicate 31 0 ++ [0x02, 0x82]), false) := by decide +kernel
/-- R190: one channel initialised, one frame. -/
theorem test_wake_skips_uninitialized_channel :
    after (exec .wake { start with schedStarted := true, chR := scanning 0 })
      (fun t => (t.chR.tx.length, t.chL.tx, t.chL.ctr)) = some (36, [], 0) := by decide +kernel
/-- R192: the worked example, counter 126 to 127. -/
theorem test_send_worked_example :
    after (exec (.send .L) { start with keys := keysOf [239], chL := scanning 126 })
      (fun t => (t.chL.ctr, t.chL.tx.drop 24)) =
      some (127, 0x10 :: (List.replicate 9 0 ++ [0x7F, 0xEE])) := by decide +kernel
theorem test_send_gated : after (exec (.send .R) start) (fun t => (t.chR.ctr, t.chR.tx)) = some (0, []) := by decide

/-! ## IngestBridge: vectors 2.9, program P4 -/

theorem test_ingReset_clears_keys_only :
    after (exec .ingReset { start with keys := keysOf [0, 125], prev := rawOf 1, chR := scanning 5 })
      (fun t => (t.keys, t.prev, t.change, t.chR)) = some (0, rawOf 1, false, scanning 5) := by decide
theorem test_ingReset_clears_prev_under_the_switch :
    after (exec .ingReset { startWith true false true true with keys := keysOf [0], prev := rawOf 1 })
      (fun t => (t.keys, t.prev)) = some (0, Vector.replicate 30 0) := by decide
/-- `47 00×29`: keys 0, 1, 2, 6. -/
theorem test_ingBitmap_bit_order :
    after (exec (.ingBitmap (rawOf 0x47)) start) (fun t => (t.keys, t.change)) =
      some (keysOf [0, 1, 2, 6], true) := by decide +kernel
/-- P4 step 5 in small: a key held across the reset signal is not written again (`RESET_CLEARS_PREV = false`). -/
theorem test_ingBitmap_writes_changed_bits_only :
    after (exec (.ingBitmap (rawOf 0x03)) { start with prev := rawOf 0x01 }) (·.keys) = some (keysOf [1]) := by
  decide +kernel
theorem test_ingMalformed_only_logs :
    after (exec (.ingMalformed [0x67]) { start with keys := keysOf [3] }) (fun t => (t.keys, t.change, t.log)) =
      some (keysOf [3], false, [⟨.warn, .malformedIngest⟩]) := by decide
theorem test_ingest_takes_the_oldest_frame :
    after (exec .ingest { start with ing := [[0x67], [0x47]] }) (fun t => (t.ing, t.log)) =
      some ([[0x47]], [⟨.warn, .malformedIngest⟩]) := by decide
theorem test_ingest_idles : after (exec .ingest start) id = some start := by decide

/-! ## Steps -/

/-- The two table rows with a numeric match, run as the first step after reset. -/
theorem test_step_errstat_after_reset :
    after (step (State.reset.withFetchWord 8 0x9A)) (fun t => (t.chR.rxq, t.log)) =
      some ([], [⟨.warn, .errstat⟩]) := by decide
theorem test_step_reset_signal_after_reset :
    after (step (State.reset.withFetchWord 8 0x47)) (fun t => (t.ing, t.keys, t.log)) = some ([], 0, []) := by decide
/-- A `CMD2` as a table word: next-read and its selector in one step. -/
theorem test_step_nextread_word :
    after (step (start.withFetchWord 16 0x3172)) (fun t => (t.chR.rxq, t.chR.tx)) =
      some ([], [0x10, 0x20, 0x30, 0x07, 0x07]) := by decide
/-- R250: the reset input in the middle of things; the schedule and the port stay. -/
theorem test_step_reset_input :
    after (step { start with
        chL := waiting [1], change := true, ing := [[0x47]], agenda := [.reset, .wake], result := .checksum 1 })
      id = some { start with ing := [[0x47]], agenda := [.wake] } := by decide
/-- R52: the client's byte goes behind those that wait. -/
theorem test_step_rx_appends :
    after (step { start with chR := queued [1], agenda := [.rx .R 2] }) (·.chR.rxq) = some [1, 2] := by decide
theorem test_powerOn_needs_both_channels :
    (match State.powerOn exampleData false false true true true false with
      | .fault r => some r
      | .next _ => none
      | .refused _ => none) = some .openFail := by decide

/-! ## Witnesses: states and operands that meet the hypotheses of each statement, clause by clause -/

/-- A Scanning channel `R`, mid-run: the transmit path is started. -/
def running : State := { start with schedStarted := true, chR := scanning 127 }

theorem running_modeInv (a : List Event) : State.ModeInv { running with agenda := a } where
  scanningIsStarted c _ := by cases c <;> rfl
  waitingIsUninitialized c h := by cases c <;> exact Bool.noConfusion h
  wakeIsWhole _ := rfl
  frameIsWhole _ := rfl
  splitWakeIsStarted h := absurd rfl h

theorem witness_DecodeOfEncodeGivesInstruction :
    (Instr.wf exampleRom (.other .L 255) = true ∧
      encode exampleRom (.other .L 255) = some ⟨.rx .L, false, [255]⟩) ∧
    (Instr.wf exampleRom (.nextreadSel .R 0x9A) = true ∧
      encode exampleRom (.nextreadSel .R 0x9A) = some ⟨.rx .R, true, [0x9A]⟩) ∧
    Instr.wf exampleRom (.ingMalformed (List.replicate 31 0)) = true ∧
      encode exampleRom (.ingMalformed (List.replicate 31 0)) = some ⟨.ing, false, List.replicate 31 0⟩ := by decide

theorem witness_EncodeOfDecodeGivesUnit :
    decode exampleRom ⟨.rx .R, false, [0x9A, 0x00]⟩ = .ok (.errstat .R, [0x00]) ∧
    decode exampleRom ⟨.ing, true, []⟩ = .ok (.ingMalformed [], []) := ⟨rfl, rfl⟩

theorem witness_RemapFollowsFormula : 119 + 1 ≤ 120 ∧ (120 < 120 + 1 ∧ 239 + 1 ≤ 240) ∧ 240 < 240 + 1 := by decide

theorem witness_RemapIsInjective : 239 < 240 ∧ remap 239 = remap 239 := by decide

theorem witness_UnmapInvertsRemap : 239 < 240 ∧ unmap .L 196 = some 239 := by decide

theorem witness_PackPlacesEveryKey : (1 ≤ 24 ∧ 24 ≤ 24 ∧ 7 < 8) ∧ 25 ≤ 33 ∧ 33 ≤ 33 := by decide

theorem witness_SetkeyWritesOneBit : (8 ≤ 8 ∧ 8 < 272) ∧ 8 ≤ 271 ∧ 271 < 272 := by decide

theorem witness_SetkeyTracksPack : 239 < 240 := by decide

theorem witness_ChecksumIsBitParity :
    (0 ≤ ([] : List Byte).length ∧ 3 ≤ [(0x81 : Byte), 1, 1].length ∧ 7 < 8) ∧ [(0x81 : Byte), 1, 1].length < 4 := by decide

theorem witness_BuildframeLayout : 1 ≤ 33 ∧ 33 ≤ 33 := by decide

theorem witness_VerifyReportsFourChecks :
    (List.replicate 35 (0 : Byte)).length ≠ 36 ∧ (List.replicate 37 (0 : Byte)).length ≠ 36 ∧
    (List.replicate 36 (0 : Byte)).length = 36 ∧ (List.replicate 36 (0 : Byte))[34]? = some 0 := by decide

theorem witness_BuiltFramesVerify : ∃ x : Byte, (sentFrame 0 .R 127)[35]? = some x ∧ x = 0x81 := by decide +kernel

theorem witness_ValidFrameHasOneBuild :
    (verify (0x81 :: (List.replicate 33 0 ++ [0x01, 0x80]))).frameOk = true ∧ unmap .R 196 = some 119 ∧
    sentFrame 0 .R 0 = 0x81 :: (List.replicate 33 0 ++ [0x01, 0x80]) ∧ (remap 119).1 = .R := by decide +kernel

theorem witness_rom_of_a_state : start.cfg.rom = exampleRom := rfl

theorem witness_UnitverAnswers_offsets : 0 ≠ 7 ∧ 0 ≠ 44 ∧ 43 ≠ 7 ∧ 43 ≠ 44 := by decide

theorem witness_OtherByteIsDiscarded :
    (({ start with chR := queued [0x00] } : State).ch .R).rxq = 0x00 :: [] ∧
    (({ start with chR := queued [0x00] } : State).ch .R).selPending = false ∧
    0x00 ∉ start.cfg.rom.codes ∧ start.cfg.rxDrain = false := by decide

theorem witness_SelectorChoosesTable :
    0x30 = start.cfg.rom.sel[(0 : Fin Param.nCal)] ∧ 0x33 = start.cfg.rom.sel[(2 : Fin Param.nCal)] ∧ 0x32 ∉ start.cfg.rom.sels := by decide

theorem witness_CommandsLeaveTheRestAlone : Instr.start .R = Command.instr .R .start := rfl

theorem witness_DispatcherModeTable :
    (start.ch .R).mode ≠ .unreachable ∧ ((({ start with chL := waiting [] } : State).ch .L).mode = .waiting) ∧
    (running.ch .R).mode = .scanning ∧ 0xC9 = start.cfg.rom.cmdStart ∧ 0x72 = start.cfg.rom.cmdNextread ∧
    0x9A ∈ start.cfg.rom.codes ∧ 0x00 ∉ start.cfg.rom.codes := by decide

theorem witness_PollTakesOneCommand :
    (start.ch .R).rxq = [] ∧
    ((({ start with chL := waiting [0x72] } : State).ch .L).rxq = 0x72 :: [] ∧
      (({ start with chL := waiting [0x72] } : State).ch .L).selPending = true) ∧
    ((({ start with chL := queued [0x9A] } : State).ch .L).rxq = 0x9A :: [] ∧ 0x9A ≠ start.cfg.rom.cmdNextread) ∧
    ((({ start with chL := queued [0x72] } : State).ch .L).rxq = 0x72 :: [] ∧
      (({ start with chL := queued [0x72] } : State).ch .L).selPending = false ∧ 0x72 = start.cfg.rom.cmdNextread) ∧
    ((({ start with chL := queued [0x72, 0x31] } : State).ch .L).rxq = 0x72 :: (0x31 :: []) ∧
      (({ start with chL := queued [0x72, 0x31] } : State).ch .L).selPending = false) := by decide

theorem witness_PollConsumesOneOrTwoBytes :
    start.cfg.rxDrain = false ∧ (({ start with chL := queued [0x72, 0x31] } : State).ch .L).rxq ≠ [] := by decide

theorem witness_RxDrainOnlyEmptiesTheQueue : (startWith false true true true).cfg.rxDrain = true := rfl

/-- Two states that differ in the other channel, the bitmap and the counter. -/
theorem witness_PollersAreIndependent :
    start.cfg = ({ running with keys := 1 } : State).cfg ∧
    (start.ch .L).rxq = (({ running with keys := 1 } : State).ch .L).rxq ∧
    (start.ch .L).init = (({ running with keys := 1 } : State).ch .L).init ∧
    (start.ch .L).selPending = (({ running with keys := 1 } : State).ch .L).selPending ∧
    start.ch .R ≠ ({ running with keys := 1 } : State).ch .R := by decide

theorem witness_SendIsGated : (running.ch .R).init = true ∧ (running.ch .L).init = false := by decide

theorem witness_WakeSendsOnScanningChannels : running.schedStarted = true ∧ running.cfg.wakeAtomic = true := by decide

theorem witness_WakeBeforeStartIsIdle : ({ start with change := true } : State).schedStarted = false := rfl

theorem witness_SplitWakeComposes :
    ({ startWith false false true false with schedStarted := true, chR := scanning 0 } : State).schedStarted = true ∧
    (startWith false false true false).cfg.wakeAtomic = false ∧ (startWith false false true false).wakePhase = .idle := by
  decide

theorem witness_CounterLaw :
    running.schedStarted = true ∧ running.cfg.wakeAtomic = true ∧ (running.ch .R).init = true ∧ 1 ≤ 129 ∧ 129 ≤ 129 := by
  decide

theorem witness_IngestClassifiesFrames :
    start.ingWork = none ∧ start.ing = [] ∧
    ({ start with ing := [[71], []] } : State).ing = [71] :: [[]] ∧ ([71] : List Byte).length = 1 ∧
    ([71] : List Byte)[0]? = some 71 ∧
    (List.replicate 30 (71 : Byte)) = (Vector.replicate 30 (71 : Byte)).toList ∧ start.cfg.ingestAtomic = true ∧
    ¬(([0x67] : List Byte).length = 1 ∧ ([0x67] : List Byte)[0]? = some 71) ∧ ([0x67] : List Byte).length ≠ 30 ∧
    ([] : List Byte).length ≠ 30 ∧ (List.replicate 31 (71 : Byte)).length ≠ 30 := by decide

theorem witness_BitmapFrameWritesChangedKeys :
    29 < 30 ∧ 7 < 8 ∧ ((rawOf 0x03).getD 0 0 ^^^ (rawOf 0x01).getD 0 0).getLsbD 1 = true := by decide

theorem witness_SplitFrameComposes :
    (startWith false false false true).cfg.ingestAtomic = false ∧ (startWith false false false true).ingWork = none ∧
    ({ startWith false false false true with ing := [(rawOf 0x03).toList] } : State).ing = (rawOf 0x03).toList :: [] ∧
    2 = ((List.range 240).filter fun k => keyBit (rawOf 0x03) k != keyBit start.prev k).length := by decide +kernel

theorem witness_StepRunsDecodedUnit :
    start.cfg.rxDrain = false ∧
    decode start.cfg.rom ⟨.rx .R, ((queued [0x9A, 0x00]).selPending), (queued [0x9A, 0x00]).rxq⟩ =
      .ok (.errstat .R, [0x00]) ∧ Instr.errstat .R ≠ .nextread .R ∧
    decode start.cfg.rom ⟨.rx .R, false, (queued [0x72]).rxq⟩ = .ok (.nextread .R, []) ∧
    decode start.cfg.rom ⟨.rx .R, false, (queued [0x72, 0x31]).rxq⟩ = .ok (.nextread .R, 0x31 :: []) ∧
    decode start.cfg.rom ⟨.ing, false, [71]⟩ = .ok (.ingReset, []) ∧ start.ingWork = none ∧
    start.cfg.ingestAtomic = true := ⟨rfl, rfl, by decide, rfl, rfl, rfl, rfl, rfl⟩

theorem witness_ResetValues :
    (State.reset = State.reset ∨ ∃ cfg, State.reset = State.resetWith cfg) ∧ ∃ cfg, start = State.resetWith cfg :=
  ⟨.inl rfl, config false, rfl⟩

theorem witness_HardwareResetClearsEverything : 29 < 30 := by decide

theorem witness_PowerOnChecksRomAndChannels :
    ¬(RomData.codes { exampleData with cmdStart := 154 }).Nodup ∧ exampleData.codes.Nodup ∧ exampleData.sels.Nodup ∧
    exampleData.sideR ≠ exampleData.sideL ∧ exampleData.payMyst1 ≠ exampleData.payMyst2 := by decide

/-- A wake in the middle of a run. -/
theorem witness_StepKeepsModeInv :
    State.ModeInv { running with agenda := [.wake] } ∧ ∃ t, step { running with agenda := [.wake] } = .next t :=
  ⟨running_modeInv _, _, rfl⟩

/-- A bitmap frame from reset; and the reset signal with `RESET_CLEARS_PREV = true`. -/
theorem witness_StepKeepsBitmapInv :
    (State.BitmapInv { start with ing := [(rawOf 1).toList], agenda := [.ingest] } ∧
      ¬State.TakesResetSignal { start with ing := [(rawOf 1).toList], agenda := [.ingest] } ∧
      ∃ t, step { start with ing := [(rawOf 1).toList], agenda := [.ingest] } = .next t) ∧
    (startWith true false true true).cfg.resetClearsPrev = true ∧
      State.TakesResetSignal { startWith true false true true with ing := [[71]], agenda := [.ingest] } := by
  refine ⟨⟨?_, fun h => absurd h.2.2 (by decide), _, rfl⟩, rfl, rfl, rfl, rfl⟩
  show ∀ k, k < 240 → readKey start.keys k = keyBit start.prev k
  decide +kernel

/-- A split frame in progress: key 1 is written, key 0 is not. -/
theorem witness_BitmapInv_split :
    State.BitmapInv { startWith false false false true with
      keys := keysOf [1], ingWork := some ⟨rawOf 0x03, [0], true⟩ } := by
  refine ⟨by decide, by decide, ?_⟩
  show ∀ k, k < 240 → readKey (keysOf [1]) k = if k ∈ [0] then keyBit start.prev k else keyBit (rawOf 0x03) k
  decide +kernel

/-- START into Scanning, and 154 out of it. -/
theorem witness_ModeChangesOnlyByItsCommands :
    after (step { start with chL := queued [0xC9], agenda := [.poll .L] }) (·.chL.init) = some true ∧
    (start.ch .L).init = false ∧
    after (step { running with chR := { scanning 0 with rxq := [0x9A] }, agenda := [.poll .R] }) (·.chR.init) =
      some false ∧ (running.ch .R).init = true := by decide

/-- A step that changes each piece of state. -/
theorem witness_EachStateHasItsWriters :
    after (step { start with ing := [(rawOf 1).toList], agenda := [.ingest] })
      (fun t => (decide (t.keys ≠ start.keys), decide (t.prev ≠ start.prev), t.change)) = some (true, true, true) ∧
    after (step { running with change := true, agenda := [.wake] }) (fun t => (t.change, t.chR.ctr)) =
      some (false, 0) ∧ (running.ch .R).ctr = 127 ∧
    after (step { start with chR := queued [0xC9], agenda := [.poll .R] })
      (fun t => (t.schedStarted, t.chR.init, t.chR.rxq)) = some (true, true, []) ∧
    after (step { start with chR := queued [0x72], agenda := [.poll .R] }) (·.chR.selPending) = some true ∧
    after (step { start with ing := [[]], agenda := [.ingest] }) (·.log) = some [⟨.warn, .malformedIngest⟩] ∧
    after (step { start with agenda := [.rx .R 0] }) (·.chR.rxq) = some [0] ∧
    (nextEvent { start with agenda := [.rx .R 0] }).1 ≠ .reset := by decide +kernel

/-- A wake that adds a frame, and a poll that adds a response. -/
theorem witness_FramesOnlyWhileScanning :
    after (step { running with agenda := [.wake] }) (fun t => (t.chR.tx.length, t.chL.tx)) = some (36, []) ∧
    after (step { start with chL := queued [0xC9], agenda := [.poll .L] }) (·.chL.tx) = some [0xC9, 0x00, 0x49] ∧
    (nextEvent { running with agenda := [.wake] }).1 ≠ .reset := by decide +kernel

end Sys2Proof.Tests
end

section
/-!
PROOFS. What is not observed of a run (10_state.md R28, 44_send_scheduler.md R191; 00_scope.md R13), and power-on
(00_scope.md R7, R226). Noninterference is proved operation by operation: an operation run on a state whose change signal
and codec output were replaced gives the state it would have given, those two aside.
-/

namespace Sys2Proof.Machine

/-! ## The two fields that are never observed -/

/-- `s` with other values of the change signal and of the codec output, the two fields that R13 does not observe and that
no operation of an agent lets flow into another field. -/
def State.withUnseen (s : State) (change : Bool) (result : CodecResult) : State :=
  { s with change := change, result := result }

section
variable (s : State) (b : Bool) (r : CodecResult)

@[simp] theorem withUnseen_cfg : (s.withUnseen b r).cfg = s.cfg := rfl
@[simp] theorem withUnseen_schedStarted : (s.withUnseen b r).schedStarted = s.schedStarted := rfl
@[simp] theorem withUnseen_ing : (s.withUnseen b r).ing = s.ing := rfl
@[simp] theorem withUnseen_ingWork : (s.withUnseen b r).ingWork = s.ingWork := rfl
@[simp] theorem withUnseen_wakePhase : (s.withUnseen b r).wakePhase = s.wakePhase := rfl

@[simp] theorem withUnseen_ch (c : Channel) : (s.withUnseen b r).ch c = s.ch c := by cases c <;> rfl

@[simp] theorem withUnseen_observe : (s.withUnseen b r).observe = s.observe := rfl

theorem modifyCh_withUnseen (c : Channel) (f : ChannelState → ChannelState) :
    (s.withUnseen b r).modifyCh c f = (s.modifyCh c f).withUnseen b r := by cases c <;> rfl

/-! ## Operations that read and write neither field -/

theorem setRxq_withUnseen (c : Channel) (q : List Byte) :
    (s.withUnseen b r).setRxq c q = (s.setRxq c q).withUnseen b r :=
  modifyCh_withUnseen s b r c _

theorem rxPop_withUnseen (c : Channel) :
    (s.withUnseen b r).rxPop c = (s.rxPop c).map fun p => (p.1, p.2.withUnseen b r) := by
  obtain ⟨h, hp⟩ | ⟨byte, q, h, hp⟩ := rxPop_cases s c
  · rw [hp, rxPop_of_empty (by simpa using h), Option.map_none]
  · rw [hp, rxPop_of_cons (by simpa using h), Option.map_some, setRxq_withUnseen]

theorem runDispatch_withUnseen (c : Channel) (byte : Byte) :
    runDispatch c byte (s.withUnseen b r) = (runDispatch c byte s).withUnseen b r := by
  obtain ⟨init, selPending, started, out, records, heffect⟩ :=
    runCommand_effect c (decodeByte s.cfg.rom (s.ch c).selPending byte) s.cfg.rom (s.ch c).init (s.ch c).selPending
  simp only [runDispatch, withUnseen_cfg, withUnseen_ch]
  rw [heffect s rfl rfl rfl, heffect (s.withUnseen b r) rfl (by simp) (by simp), modifyCh_withUnseen]
  rfl

theorem takeSelector_withUnseen (c : Channel) :
    takeSelector c (s.withUnseen b r) = (takeSelector c s).withUnseen b r := by
  unfold takeSelector
  rw [rxPop_withUnseen]
  cases s.rxPop c with
  | none => rfl
  | some p => exact runDispatch_withUnseen p.2 b r c p.1

theorem drain_withUnseen (c : Channel) : drain c (s.withUnseen b r) = (drain c s).withUnseen b r := by
  simp only [drain, withUnseen_cfg, withUnseen_ch, setRxq_withUnseen]
  split <;> rfl

theorem runPoll_withUnseen (c : Channel) : runPoll c (s.withUnseen b r) = (runPoll c s).withUnseen b r := by
  unfold runPoll
  rw [rxPop_withUnseen]
  cases s.rxPop c with
  | none => rfl
  | some p =>
    simp only [Option.map_some, runDispatch_withUnseen, takeSelector_withUnseen, drain_withUnseen, withUnseen_ch]
    split <;> rfl

theorem runSend_withUnseen (c : Channel) : runSend c (s.withUnseen b r) = (runSend c s).withUnseen b r := by
  rw [runSend_eq, runSend_eq, modifyCh_withUnseen]
  rfl

end

/-! ## Every event keeps two states apart in those fields only -/

/-- Whatever values the two unseen fields have before `f`, the other fields after `f` are the same. -/
def BlindToUnseen (f : State → State) : Prop :=
  ∀ (s : State) (b : Bool) (r : CodecResult), ∃ b' r', f (s.withUnseen b r) = (f s).withUnseen b' r'

theorem runPoll_blind (c : Channel) : BlindToUnseen (runPoll c) :=
  fun s b r => ⟨b, r, runPoll_withUnseen s b r c⟩

/-- A whole wake clears the change signal first, and its sends do not read it. -/
theorem runWholeWake_blind : BlindToUnseen runWholeWake := by
  intro s b r
  have hclear : { s.withUnseen b r with change := false } = State.withUnseen { s with change := false } false r := rfl
  exact ⟨false, r, by simp only [runWholeWake, hclear, runSend_withUnseen]⟩

theorem runWakePart_blind : BlindToUnseen runWakePart := by
  intro s b r
  simp only [runWakePart, withUnseen_wakePhase]
  cases s.wakePhase with
  | idle => exact ⟨false, r, rfl⟩
  | sendR => exact ⟨b, r, by simp only [runSend_withUnseen]; rfl⟩
  | sendL => exact ⟨b, r, by simp only [runSend_withUnseen]; rfl⟩

theorem runWake_blind : BlindToUnseen runWake := by
  intro s b r
  by_cases hstart : s.schedStarted
  · by_cases hatomic : s.cfg.wakeAtomic
    · simpa [runWake, hstart, hatomic] using runWholeWake_blind s b r
    · simpa [runWake, hstart, hatomic] using runWakePart_blind s b r
  · exact ⟨b, r, by simp [runWake, hstart]⟩

theorem continueBitmap_blind (w : IngestWork) : BlindToUnseen (continueBitmap w) := by
  intro s b r
  unfold continueBitmap
  cases w.todo with
  | nil => exact ⟨b || w.changed, r, rfl⟩
  | cons k ks => exact ⟨b, r, rfl⟩

/-- Taking a frame: whether the change signal is raised is decided by the frame and `prev`, not by the signal. -/
theorem runIngest_blind : BlindToUnseen runIngest := by
  intro s b r
  simp only [runIngest, State.ingestNext, withUnseen_ingWork, withUnseen_ing]
  cases s.ingWork with
  | some w => exact continueBitmap_blind w s b r
  | none =>
    cases s.ing with
    | nil => exact ⟨b, r, rfl⟩
    | cons f rest =>
      dsimp only
      cases classifyFrame f with
      | reset => exact ⟨b, r, rfl⟩
      | bitmap g =>
        by_cases hatomic : s.cfg.ingestAtomic
        · exact ⟨b || anyChanged s.prev g, r, by simp only [withUnseen_cfg, hatomic, if_true]; rfl⟩
        · exact ⟨b, r, by simp only [withUnseen_cfg, hatomic]; rfl⟩
      | malformed g => exact ⟨b, r, rfl⟩

theorem rxAppend_blind (c : Channel) (byte : Byte) : BlindToUnseen fun s => s.rxAppend c byte :=
  fun s b r => ⟨b, r, modifyCh_withUnseen s b r c _⟩

theorem offerFrame_blind (f : List Byte) : BlindToUnseen fun s => s.offerFrame f :=
  fun _ b r => ⟨b, r, rfl⟩

theorem hardReset_blind : BlindToUnseen State.hardReset :=
  fun _ _ _ => ⟨false, .nothing, rfl⟩

/-- Each event has one effect, whatever the state it happens in, and the effect is blind to the unseen fields. -/
theorem step_of_event_blind (e : Event) : ∃ f : State → State, BlindToUnseen f ∧
    ∀ s : State, (nextEvent s).1 = e → step s = .next (f (nextEvent s).2) := by
  cases e with
  | rx c byte => exact ⟨_, rxAppend_blind c byte, fun s h => by simpa [h] using step_cases s⟩
  | offer f => exact ⟨_, offerFrame_blind f, fun s h => by simpa [h] using step_cases s⟩
  | reset => exact ⟨_, hardReset_blind, fun s h => by simpa [h] using step_cases s⟩
  | poll c => exact ⟨_, runPoll_blind c, fun s h => by simpa [h] using step_cases s⟩
  | wake => exact ⟨_, runWake_blind, fun s h => by simpa [h] using step_cases s⟩
  | ingest => exact ⟨_, runIngest_blind, fun s h => by simpa [h] using step_cases s⟩

theorem nextEvent_withUnseen (s : State) (b : Bool) (r : CodecResult) :
    nextEvent (s.withUnseen b r) = ((nextEvent s).1, (nextEvent s).2.withUnseen b r) := by
  cases h : s.agenda with
  | nil => simp [nextEvent, State.withUnseen, h]
  | cons e rest => simp [nextEvent, State.withUnseen, h]

/-- One step from two states that differ only in the unseen fields. -/
theorem step_withUnseen (s : State) (b : Bool) (r : CodecResult) :
    ∃ t b' r', step s = .next t ∧ step (s.withUnseen b r) = .next (t.withUnseen b' r') := by
  obtain ⟨f, hblind, hstep⟩ := step_of_event_blind (nextEvent s).1
  obtain ⟨b', r', hf⟩ := hblind (nextEvent s).2 b r
  have hnext := nextEvent_withUnseen s b r
  refine ⟨f (nextEvent s).2, b', r', hstep s rfl, ?_⟩
  rw [hstep (s.withUnseen b r) (by rw [hnext]), hnext, hf]

/-- Any number of steps from two states that differ only in the unseen fields. -/
theorem run_withUnseen (n : Nat) (s : State) (b : Bool) (r : CodecResult) :
    ∃ (t : State) (b' : Bool) (r' : CodecResult),
      core.run n s = .next t ∧ core.run n (s.withUnseen b r) = .next (t.withUnseen b' r') := by
  induction n generalizing s b r with
  | zero => exact ⟨s, b, r, run_zero s, run_zero _⟩
  | succ n ih =>
    obtain ⟨t, b₁, r₁, hs, hs'⟩ := step_withUnseen s b r
    obtain ⟨u, b₂, r₂, hrun, hrun'⟩ := ih t b₁ r₁
    exact ⟨u, b₂, r₂, (run_succ n hs).trans hrun, (run_succ n hs').trans hrun'⟩

/-- Settles O58: the relation "equal but for `change` and the codec output" is kept by every step, and `observe` reads
neither field. -/
theorem changeIsUnobservable : Obligations.ChangeIsUnobservable := by
  intro n s b r
  obtain ⟨t, b', r', hrun, hrun'⟩ := run_withUnseen n s b r
  exact ⟨t, t.withUnseen b' r', hrun, hrun', rfl, withUnseen_observe t b' r'⟩

/-! ## Power-on -/

/-- R7, as a proposition. -/
theorem RomData.wf_iff (d : RomData) :
    d.wf = true ↔ d.codes.Nodup ∧ d.sels.Nodup ∧ d.sideR ≠ d.sideL ∧ d.payMyst1 ≠ d.payMyst2 :=
  decide_eq_true_iff

section
variable (d : RomData) (p x a w : Bool)

/-- R226, R258: a channel that is not open stops power-on before the ROM is looked at. -/
theorem powerOn_of_closed {openR openL : Bool} (h : openR = false ∨ openL = false) :
    State.powerOn d p x a w openR openL = .fault .openFail := by
  have hclosed : (!(openR && openL)) = true := by simpa using h
  rw [State.powerOn, if_pos hclosed]

theorem powerOn_of_illFormed (h : ¬d.wf = true) : State.powerOn d p x a w true true = .refused .illFormedRom :=
  dif_neg h

theorem powerOn_of_wf (h : d.wf = true) :
    State.powerOn d p x a w true true = .next (State.resetWith
      { rom := { toRomData := d, wf := h }, resetClearsPrev := p, rxDrain := x, ingestAtomic := a, wakeAtomic := w }) :=
  dif_pos h

end

/-- Settles O50: the three answers of power-on, with R7's check read as a proposition. -/
theorem powerOnChecksRomAndChannels : Obligations.PowerOnChecksRomAndChannels := by
  intro d p x a w openR openL
  refine ⟨powerOn_of_closed d p x a w, ?_, ?_⟩
  · rintro rfl rfl hill
    exact powerOn_of_illFormed d p x a w (mt (RomData.wf_iff d).mp hill)
  · rintro rfl rfl hcodes hsels hside hpay
    exact ⟨_, powerOn_of_wf d p x a w ((RomData.wf_iff d).mpr ⟨hcodes, hsels, hside, hpay⟩), rfl, rfl, rfl, rfl, rfl⟩

end Sys2Proof.Machine
end

section
/-!
PROOFS. The state (10_state.md): its reset values (R39), which agent writes what (R34), and the two invariants that every
step keeps (R35, R36). Each agent's operation gets one lemma on all that it writes and one lemma per invariant; a step is
one of the agents' operations, or the environment's, after the schedule has moved on.
-/

namespace Sys2Proof.Machine

/-- Settles O17: the laws of `modifyCh`, field by field. -/
theorem channelUpdateTouchesOneChannel : Obligations.ChannelUpdateTouchesOneChannel := fun s c f =>
  ⟨ch_modifyCh_self s c f, ch_modifyCh_other s c f, modifyCh_cfg s c f, modifyCh_keys s c f, modifyCh_prev s c f,
    modifyCh_change s c f, modifyCh_schedStarted s c f, modifyCh_log s c f, modifyCh_ing s c f, modifyCh_ingWork s c f,
    modifyCh_wakePhase s c f, modifyCh_result s c f, modifyCh_agenda s c f, modifyCh_tick s c f⟩

/-! ## Reset values -/

/-- A raw frame of zero bytes is zero everywhere, also beyond its end. -/
theorem getD_zeroFrame (i : Nat) : (Vector.replicate Param.rawLen (0 : Byte)).getD i 0 = 0 := by
  by_cases hi : i < 30
  · exact (rawFrame_getD _ i hi).trans (Vector.getElem_replicate hi)
  · simp [Vector.getD, Array.getD, hi]

theorem ch_resetWith (cfg : Config) (c : Channel) : (State.resetWith cfg).ch c = ChannelState.reset := by
  cases c <;> rfl

theorem ch_hardReset (s : State) (c : Channel) : s.hardReset.ch c = ChannelState.reset := by
  cases c <;> rfl

/-- Settles O48: `State.reset` is one of the reset states, and those have R39's values. -/
theorem resetValues : Obligations.ResetValues := by
  intro s hs
  obtain ⟨cfg, rfl⟩ : ∃ cfg, s = State.resetWith cfg := hs.elim (fun h => ⟨Config.decided, h⟩) id
  exact ⟨rfl, fun i _ => getD_zeroFrame i, rfl, rfl, ch_resetWith cfg, rfl, rfl, rfl, rfl, rfl, rfl, rfl⟩

/-! ## A step, taken apart -/

/-- All that a step can lead to: the schedule has moved on to `agenda` and `tick`, and the event's operation has run. -/
theorem step_next_cases {s t : State} (h : step s = .next t) :
    ∃ (agenda : List Event) (tick : Nat) (u : State), u = { s with agenda := agenda, tick := tick } ∧
      ((∃ c, (nextEvent s).1 = .poll c ∧ t = runPoll c u) ∨
        ((nextEvent s).1 = .wake ∧ t = runWake u) ∨
        ((nextEvent s).1 = .ingest ∧ t = runIngest u) ∨
        (∃ c b, (nextEvent s).1 = .rx c b ∧ t = u.rxAppend c b) ∨
        (∃ f, (nextEvent s).1 = .offer f ∧ t = u.offerFrame f) ∨
        ((nextEvent s).1 = .reset ∧ t = u.hardReset)) := by
  obtain ⟨agenda, tick, hu⟩ := nextEvent_snd s
  refine ⟨agenda, tick, (nextEvent s).2, hu, ?_⟩
  have hcases := step_cases s
  simp only [h, Host.Outcome.next.injEq] at hcases
  exact hcases

/-! ## What each agent writes -/

/-- All that the Poller of channel `c` writes: the flags, the receive queue and the end of the transmit stream of its own
channel, the end of the log, and `sched_started`, which it does not clear (R183). -/
def PollerWrites (c : Channel) (s t : State) : Prop :=
  ∃ (init selPending started : Bool) (rxq out : List Byte) (records : List LogRecord),
    t = { (s.modifyCh c fun ch =>
        { ch with init := init, selPending := selPending, rxq := rxq, tx := ch.tx ++ out }) with
      schedStarted := s.schedStarted || started
      log := s.log ++ records }

theorem PollerWrites.refl (c : Channel) (s : State) : PollerWrites c s s :=
  ⟨(s.ch c).init, (s.ch c).selPending, false, (s.ch c).rxq, [], [], by cases c <;> simp [State.modifyCh]⟩

theorem PollerWrites.trans {c : Channel} {s t u : State} (hst : PollerWrites c s t) (htu : PollerWrites c t u) :
    PollerWrites c s u := by
  obtain ⟨_, _, started, _, out, records, rfl⟩ := hst
  obtain ⟨init, selPending, started', rxq, out', records', rfl⟩ := htu
  exact ⟨init, selPending, started || started', rxq, out ++ out', records ++ records',
    by cases c <;> simp [State.modifyCh, Bool.or_assoc]⟩

theorem setRxq_writes (c : Channel) (q : List Byte) (s : State) : PollerWrites c s (s.setRxq c q) :=
  ⟨(s.ch c).init, (s.ch c).selPending, false, q, [], [], by cases c <;> simp [setRxq_eq, State.modifyCh]⟩

theorem runDispatch_writes (c : Channel) (b : Byte) (s : State) : PollerWrites c s (runDispatch c b s) := by
  obtain ⟨init, selPending, started, out, records, heffect⟩ :=
    runCommand_effect c (decodeByte s.cfg.rom (s.ch c).selPending b) s.cfg.rom (s.ch c).init (s.ch c).selPending
  exact ⟨init, selPending, started, (s.ch c).rxq, out, records,
    by rw [runDispatch, heffect s rfl rfl rfl]; cases c <;> rfl⟩

theorem takeSelector_writes (c : Channel) (s : State) : PollerWrites c s (takeSelector c s) := by
  obtain ⟨-, hpop⟩ | ⟨b, q, -, hpop⟩ := rxPop_cases s c
  · simpa [takeSelector, hpop] using PollerWrites.refl c s
  · simpa [takeSelector, hpop] using (setRxq_writes c q s).trans (runDispatch_writes c b _)

theorem drain_writes (c : Channel) (s : State) : PollerWrites c s (drain c s) := by
  unfold drain
  split
  · exact setRxq_writes c [] s
  · exact .refl c s

theorem runPoll_writes (c : Channel) (s : State) : PollerWrites c s (runPoll c s) := by
  obtain ⟨-, h⟩ | ⟨b, q, -, ⟨-, h⟩ | ⟨-, h⟩⟩ := runPoll_cases c s
  · rw [h]
    exact .refl c s
  · rw [h]
    exact ((setRxq_writes c q s).trans (runDispatch_writes c b _)).trans (drain_writes c _)
  · rw [h]
    exact (((setRxq_writes c q s).trans (runDispatch_writes c b _)).trans (takeSelector_writes c _)).trans
      (drain_writes c _)

/-- All that INGEST writes: the bitmap, `prev`, the change signal, which it does not clear, the end of the log, and its own
port and progress. -/
theorem runIngest_writes (s : State) :
    ∃ (keys : Keys) (prev : RawFrame) (raised : Bool) (records : List LogRecord) (ing : List (List Byte))
      (work : Option IngestWork), runIngest s =
        { s with
          keys := keys, prev := prev, change := s.change || raised, log := s.log ++ records, ing := ing
          ingWork := work } := by
  obtain ⟨w, -, h⟩ | ⟨-, -, h⟩ | ⟨f, rest, -, -, ⟨-, h⟩ | ⟨g, -, ⟨-, h⟩ | ⟨-, h⟩⟩ | ⟨-, h⟩⟩ := runIngest_cases s
  · cases hw : w.todo with
    | nil => exact ⟨s.keys, w.frame, w.changed, [], s.ing, none, by simp [h, continueBitmap, hw]⟩
    | cons k ks =>
      exact ⟨writeKey s.keys k (keyBit w.frame k), s.prev, false, [], s.ing, some { w with todo := ks },
        by simp [h, continueBitmap, hw]⟩
  · exact ⟨s.keys, s.prev, false, [], s.ing, s.ingWork, by simp [h]⟩
  · exact ⟨0, if s.cfg.resetClearsPrev then Vector.replicate _ 0 else s.prev, false, [], rest, s.ingWork,
      by simp [h, runIngReset]⟩
  · exact ⟨writeKeys g (changedKeys s.prev g) s.keys, g, anyChanged s.prev g, [], rest, s.ingWork,
      by simp [h, runIngBitmap]⟩
  · exact ⟨s.keys, s.prev, false, [], rest, some ⟨g, changedKeys s.prev g, anyChanged s.prev g⟩,
      by simp [h, beginBitmap]⟩
  · exact ⟨s.keys, s.prev, false, [⟨.warn, .malformedIngest⟩], rest, s.ingWork,
      by simp [h, runIngMalformed, takeCondition_malformedIngest]⟩

/-- All that a wake writes: the change signal, the two channels and its own progress. -/
theorem runWake_writes (s : State) :
    ∃ (change : Bool) (chR chL : ChannelState) (phase : WakePhase),
      runWake s = { s with change := change, chR := chR, chL := chL, wakePhase := phase } := by
  obtain ⟨-, h⟩ | ⟨-, ⟨-, h⟩ | ⟨-, -, h⟩ | ⟨-, -, h⟩ | ⟨-, -, h⟩⟩ := runWake_cases s
  all_goals exact ⟨_, _, _, _, h⟩

/-- A wake does not raise the change signal, and clears it only once the transmit path is started. -/
theorem change_runWake (s : State) :
    (runWake s).change = s.change ∨ s.schedStarted = true ∧ (runWake s).change = false := by
  obtain ⟨-, h⟩ | ⟨hstart, ⟨-, h⟩ | ⟨-, -, h⟩ | ⟨-, -, h⟩ | ⟨-, -, h⟩⟩ := runWake_cases s
  · exact .inl (by rw [h])
  · exact .inr ⟨hstart, by rw [h]⟩
  · exact .inr ⟨hstart, by rw [h]⟩
  · exact .inl (by rw [h])
  · exact .inl (by rw [h])

/-- A wake leaves a channel alone or runs SEND on it. -/
theorem ch_runWake (s : State) (c : Channel) :
    (runWake s).ch c = s.ch c ∨ (runWake s).ch c = sentOn s c (s.ch c) := by
  obtain ⟨-, h⟩ | ⟨-, ⟨-, h⟩ | ⟨-, -, h⟩ | ⟨-, -, h⟩ | ⟨-, -, h⟩⟩ := runWake_cases s
  all_goals rw [h]; cases c <;> simp

theorem init_runWake (s : State) (c : Channel) : ((runWake s).ch c).init = (s.ch c).init := by
  obtain h | h := ch_runWake s c <;> rw [h]
  exact sentOn_init s c _

theorem selPending_runWake (s : State) (c : Channel) : ((runWake s).ch c).selPending = (s.ch c).selPending := by
  obtain h | h := ch_runWake s c <;> rw [h]
  exact sentOn_selPending s c _

theorem rxq_runWake (s : State) (c : Channel) : ((runWake s).ch c).rxq = (s.ch c).rxq := by
  obtain h | h := ch_runWake s c <;> rw [h]
  exact sentOn_rxq s c _

/-- The counter of a channel moves in a wake only by one, and only where the channel is initialised (R192). -/
theorem ctr_runWake (s : State) (c : Channel) :
    ((runWake s).ch c).ctr = (s.ch c).ctr ∨
      (s.ch c).init = true ∧ ((runWake s).ch c).ctr = (s.ch c).ctr + 1 := by
  obtain h | h := ch_runWake s c <;> rw [h]
  · exact .inl rfl
  · cases hinit : (s.ch c).init <;> simp [sentOn, hinit]

/-! ## R34: each piece of state has its writers -/

/-- What the step of an event `e` may have changed between `s` and `t` (R34, R70, R26, R33). -/
structure WritesAsOwner (e : Event) (s t : State) : Prop where
  cfg : t.cfg = s.cfg
  bitmap : t.keys ≠ s.keys ∨ t.prev ≠ s.prev → e = .ingest
  raised : s.change = false → t.change = true → e = .ingest
  cleared : s.change = true → t.change = false → e = .wake ∧ s.schedStarted = true
  staysStarted : s.schedStarted = true → t.schedStarted = true
  started : t.schedStarted ≠ s.schedStarted → ∃ c, e = .poll c
  log : t.log ≠ s.log → e = .ingest ∨ ∃ c, e = .poll c
  flags : ∀ c, (t.ch c).init ≠ (s.ch c).init ∨ (t.ch c).selPending ≠ (s.ch c).selPending → e = .poll c
  ctr : ∀ c, (t.ch c).ctr ≠ (s.ch c).ctr → e = .wake ∧ (s.ch c).init = true ∧ (t.ch c).ctr = (s.ch c).ctr + 1
  rxq : ∀ c, (t.ch c).rxq ≠ (s.ch c).rxq → e = .poll c ∨ ∃ b, e = .rx c b

theorem runPoll_writesAsOwner (c : Channel) (s : State) : WritesAsOwner (.poll c) s (runPoll c s) := by
  obtain ⟨init, selPending, started, rxq, out, records, h⟩ := runPoll_writes c s
  rw [h]
  constructor
  case flags | ctr | rxq =>
    intro c'
    by_cases hc : c' = c <;> simp [ch_modifyCh, hc]
  all_goals simp +contextual

theorem runWake_writesAsOwner (s : State) : WritesAsOwner .wake s (runWake s) := by
  obtain ⟨change, chR, chL, phase, h⟩ := runWake_writes s
  constructor
  case raised | cleared => obtain hc | hc := change_runWake s <;> simp +contextual [hc]
  case flags => simp [init_runWake, selPending_runWake]
  case ctr => exact fun c hne => ⟨rfl, (ctr_runWake s c).resolve_left hne⟩
  case rxq => simp [rxq_runWake]
  all_goals simp [h]

theorem runIngest_writesAsOwner (s : State) : WritesAsOwner .ingest s (runIngest s) := by
  obtain ⟨keys, prev, raised, records, ing, work, h⟩ := runIngest_writes s
  rw [h]
  constructor
  all_goals simp +contextual

theorem rxAppend_writesAsOwner (c : Channel) (b : Byte) (s : State) :
    WritesAsOwner (.rx c b) s (s.rxAppend c b) := by
  rw [rxAppend_eq]
  constructor
  case flags | ctr | rxq =>
    intro c'
    by_cases hc : c' = c <;> simp [ch_modifyCh, hc]
  all_goals simp +contextual

theorem offerFrame_writesAsOwner (f : List Byte) (s : State) : WritesAsOwner (.offer f) s (s.offerFrame f) := by
  unfold State.offerFrame
  constructor
  all_goals simp +contextual

/-- Moving the schedule on writes no piece of state that has an owner. -/
theorem WritesAsOwner.of_schedule {e : Event} {s t : State} {agenda : List Event} {tick : Nat}
    (h : WritesAsOwner e { s with agenda := agenda, tick := tick } t) : WritesAsOwner e s t := by
  obtain ⟨hcfg, hbitmap, hraised, hcleared, hstays, hstarted, hlog, hflags, hctr, hrxq⟩ := h
  simp only [ch_mk] at hflags hctr hrxq
  exact ⟨hcfg, hbitmap, hraised, hcleared, hstays, hstarted, hlog, hflags, hctr, hrxq⟩

theorem step_writesAsOwner {s t : State} (h : step s = .next t) (hreset : (nextEvent s).1 ≠ .reset) :
    WritesAsOwner (nextEvent s).1 s t := by
  obtain ⟨agenda, tick, u, rfl, ⟨c, he, rfl⟩ | ⟨he, rfl⟩ | ⟨he, rfl⟩ | ⟨c, b, he, rfl⟩ | ⟨f, he, rfl⟩ | ⟨he, -⟩⟩ :=
    step_next_cases h
  · exact he ▸ (runPoll_writesAsOwner c _).of_schedule
  · exact he ▸ (runWake_writesAsOwner _).of_schedule
  · exact he ▸ (runIngest_writesAsOwner _).of_schedule
  · exact he ▸ (rxAppend_writesAsOwner c b _).of_schedule
  · exact he ▸ (offerFrame_writesAsOwner f _).of_schedule
  · exact absurd he hreset

/-- Settles O56: the event's own operation writes only what that event owns. -/
theorem eachStateHasItsWriters : Obligations.EachStateHasItsWriters := by
  intro s t h hreset
  obtain ⟨hcfg, hbitmap, hraised, hcleared, hstays, hstarted, hlog, hflags, hctr, hrxq⟩ := step_writesAsOwner h hreset
  exact ⟨hcfg, hbitmap, hraised, hcleared, hstays, hstarted, hlog, fun c => ⟨hflags c, hctr c, hrxq c⟩⟩

/-! ## R35: the invariants of the modes -/

theorem resetWith_modeInv (cfg : Config) : (State.resetWith cfg).ModeInv where
  scanningIsStarted c h := by simp [ch_resetWith, ChannelState.reset] at h
  waitingIsUninitialized c _ := by simp [ch_resetWith, ChannelState.reset]
  wakeIsWhole _ := rfl
  frameIsWhole _ := rfl
  splitWakeIsStarted h := absurd rfl h

/-- Settles O51: `State.reset` is the reset state with the decided parameters. -/
theorem resetMeetsModeInv : Obligations.ResetMeetsModeInv :=
  ⟨resetWith_modeInv Config.decided, resetWith_modeInv⟩

/-- `ModeInv` reads the two flags of each channel, `sched_started`, the parameters and the progress fields only. -/
theorem State.ModeInv.congr {s t : State} (h : s.ModeInv) (hinit : ∀ c, (t.ch c).init = (s.ch c).init)
    (hwait : ∀ c, (t.ch c).selPending = (s.ch c).selPending) (hstart : t.schedStarted = s.schedStarted)
    (hcfg : t.cfg = s.cfg) (hphase : t.wakePhase = s.wakePhase) (hwork : t.ingWork = s.ingWork) : t.ModeInv where
  scanningIsStarted c := by rw [hinit, hstart]; exact h.scanningIsStarted c
  waitingIsUninitialized c := by rw [hinit, hwait]; exact h.waitingIsUninitialized c
  wakeIsWhole := by rw [hcfg, hphase]; exact h.wakeIsWhole
  frameIsWhole := by rw [hcfg, hwork]; exact h.frameIsWhole
  splitWakeIsStarted := by rw [hphase, hstart]; exact h.splitWakeIsStarted

theorem State.ModeInv.started {s : State} (h : s.ModeInv) : State.ModeInv { s with schedStarted := true } where
  scanningIsStarted _ _ := rfl
  waitingIsUninitialized c := by simpa using h.waitingIsUninitialized c
  wakeIsWhole := h.wakeIsWhole
  frameIsWhole := h.frameIsWhole
  splitWakeIsStarted _ := rfl

/-- An update of one channel keeps the invariants if the flags it leaves are allowed. -/
theorem State.ModeInv.modifyCh {s : State} (h : s.ModeInv) (c : Channel) (f : ChannelState → ChannelState)
    (hinit : (f (s.ch c)).init = true → s.schedStarted = true)
    (hwait : (f (s.ch c)).selPending = true → (f (s.ch c)).init = false) : (s.modifyCh c f).ModeInv where
  scanningIsStarted c' := by
    by_cases hc : c' = c
    · subst hc; simpa using hinit
    · simpa [ch_modifyCh, hc] using h.scanningIsStarted c'
  waitingIsUninitialized c' := by
    by_cases hc : c' = c
    · subst hc; simpa using hwait
    · simpa [ch_modifyCh, hc] using h.waitingIsUninitialized c'
  wakeIsWhole := by simpa using h.wakeIsWhole
  frameIsWhole := by simpa using h.frameIsWhole
  splitWakeIsStarted := by simpa using h.splitWakeIsStarted

/-- An answered command that leaves the channel Uninitialized. -/
theorem answer_false_modeInv {s : State} (h : s.ModeInv) (c : Channel) (response : List Byte) :
    (answer c false response s).ModeInv := by
  rw [answer_eq]
  exact h.modifyCh c _ (by simp) (by simp)

/-- START's two effects, with the transmit path started first. -/
theorem runStart_eq (c : Channel) (s : State) :
    runStart c s = answer c true s.cfg.rom.payStart.toList { s with schedStarted := true } := by
  cases c <;> rfl

/-- Every command keeps the invariants; START does because it is decoded only where no selector is awaited. -/
theorem runCommand_modeInv {s : State} (h : s.ModeInv) (c : Channel) (cmd : Command)
    (hstart : cmd = .start → (s.ch c).selPending = false) : (runCommand c cmd s).ModeInv := by
  cases cmd with
  | syncver => exact answer_false_modeInv h c _
  | nextread =>
    simp only [runCommand, runNextread, setInit_eq, setSelPending_eq, modifyCh_modifyCh]
    exact h.modifyCh c _ (by simp) (by simp)
  | nextreadSel sel =>
    simp only [runCommand, runNextreadSel]
    cases selectTable s.cfg.rom sel with
    | none =>
      simp only [takeCondition_unknownSel]
      exact h.modifyCh c _ (h.scanningIsStarted c) (by simp)
    | some table =>
      simp only [setSelPending_eq, txWrite_eq, modifyCh_modifyCh]
      exact h.modifyCh c _ (h.scanningIsStarted c) (by simp)
  | unitver => exact answer_false_modeInv h c _
  | myst1 => exact answer_false_modeInv h c _
  | myst2 => exact answer_false_modeInv h c _
  | start =>
    simp only [runCommand, runStart_eq, answer_eq]
    exact h.started.modifyCh c _ (by simp) (by simp [hstart rfl])
  | errstat =>
    have hclear := h.modifyCh c (fun ch => { ch with init := false }) (by simp) (by simp)
    simp only [runCommand, runErrstat, takeCondition_errstat]
    exact hclear.congr (by simp) (by simp) rfl rfl rfl rfl
  | other b => exact h

/-- R83: a byte is an opcode only where no selector is awaited. -/
theorem selPending_of_decodeByte_start {rom : Rom} {p : Bool} {b : Byte} (h : decodeByte rom p b = .start) :
    p = false := by
  cases p with
  | false => rfl
  | true => simp [decodeByte] at h

theorem runDispatch_modeInv {s : State} (h : s.ModeInv) (c : Channel) (b : Byte) : (runDispatch c b s).ModeInv :=
  runCommand_modeInv h c _ selPending_of_decodeByte_start

theorem setRxq_modeInv {s : State} (h : s.ModeInv) (c : Channel) (q : List Byte) : (s.setRxq c q).ModeInv :=
  h.modifyCh c _ (h.scanningIsStarted c) (h.waitingIsUninitialized c)

theorem takeSelector_modeInv {s : State} (h : s.ModeInv) (c : Channel) : (takeSelector c s).ModeInv := by
  obtain ⟨-, hpop⟩ | ⟨b, q, -, hpop⟩ := rxPop_cases s c
  · simpa [takeSelector, hpop] using h
  · simpa [takeSelector, hpop] using runDispatch_modeInv (setRxq_modeInv h c q) c b

theorem drain_modeInv {s : State} (h : s.ModeInv) (c : Channel) : (drain c s).ModeInv := by
  unfold drain
  split
  · exact setRxq_modeInv h c []
  · exact h

theorem runPoll_modeInv {s : State} (h : s.ModeInv) (c : Channel) : (runPoll c s).ModeInv := by
  obtain ⟨-, hp⟩ | ⟨b, q, -, ⟨-, hp⟩ | ⟨-, hp⟩⟩ := runPoll_cases c s
  · rwa [hp]
  · rw [hp]
    exact drain_modeInv (runDispatch_modeInv (setRxq_modeInv h c q) c b) c
  · rw [hp]
    exact drain_modeInv (takeSelector_modeInv (runDispatch_modeInv (setRxq_modeInv h c q) c b) c) c

/-- Under `WAKE_ATOMIC` a wake leaves its progress alone. -/
theorem wakePhase_runWake_of_atomic {s : State} (h : s.cfg.wakeAtomic = true) :
    (runWake s).wakePhase = s.wakePhase := by
  obtain ⟨-, hw⟩ | ⟨-, ⟨-, hw⟩ | ⟨hsplit, -⟩ | ⟨hsplit, -⟩ | ⟨hsplit, -⟩⟩ := runWake_cases s
  · rw [hw]
  · rw [hw]
  all_goals simp [h] at hsplit

/-- R191: before the first START a wake does nothing. -/
theorem runWake_of_not_started {s : State} (h : s.schedStarted = false) : runWake s = s := by
  simp [runWake, h]

theorem runWake_modeInv {s : State} (h : s.ModeInv) : (runWake s).ModeInv := by
  obtain ⟨change, chR, chL, phase, hw⟩ := runWake_writes s
  have hcfg : (runWake s).cfg = s.cfg := by rw [hw]
  have hstart : (runWake s).schedStarted = s.schedStarted := by rw [hw]
  have hwork : (runWake s).ingWork = s.ingWork := by rw [hw]
  constructor
  case scanningIsStarted => simpa only [init_runWake, hstart] using h.scanningIsStarted
  case waitingIsUninitialized => simpa only [init_runWake, selPending_runWake] using h.waitingIsUninitialized
  case wakeIsWhole =>
    intro hatomic
    rw [hcfg] at hatomic
    rw [wakePhase_runWake_of_atomic hatomic]
    exact h.wakeIsWhole hatomic
  case frameIsWhole => simpa only [hcfg, hwork] using h.frameIsWhole
  case splitWakeIsStarted =>
    intro hphase
    rw [hstart]
    by_contra hoff
    rw [runWake_of_not_started (by simpa using hoff)] at hphase
    exact hoff (h.splitWakeIsStarted hphase)

/-- Under `INGEST_ATOMIC`, with no frame in progress, INGEST leaves none in progress. -/
theorem ingWork_runIngest_of_atomic {s : State} (h : s.cfg.ingestAtomic = true) (hwork : s.ingWork = none) :
    (runIngest s).ingWork = none := by
  obtain ⟨w, hsome, -⟩ | ⟨-, -, hi⟩ | ⟨f, rest, -, -, ⟨-, hi⟩ | ⟨g, -, ⟨-, hi⟩ | ⟨hsplit, -⟩⟩ | ⟨-, hi⟩⟩ :=
    runIngest_cases s
  · simp [hwork] at hsome
  · rw [hi, hwork]
  · rw [hi]; exact hwork
  · rw [hi]; exact hwork
  · simp [h] at hsplit
  · rw [hi]; exact hwork

theorem runIngest_modeInv {s : State} (h : s.ModeInv) : (runIngest s).ModeInv := by
  have hwork (hatomic : s.cfg.ingestAtomic = true) : (runIngest s).ingWork = none :=
    ingWork_runIngest_of_atomic hatomic (h.frameIsWhole hatomic)
  obtain ⟨keys, prev, raised, records, ing, work, hi⟩ := runIngest_writes s
  rw [hi] at hwork ⊢
  constructor
  case scanningIsStarted => simpa using h.scanningIsStarted
  case waitingIsUninitialized => simpa using h.waitingIsUninitialized
  case wakeIsWhole => exact h.wakeIsWhole
  case frameIsWhole => exact hwork
  case splitWakeIsStarted => exact h.splitWakeIsStarted

/-- Settles O52: each event's operation keeps the invariants. -/
theorem stepKeepsModeInv : Obligations.StepKeepsModeInv := by
  intro s t h hstep
  obtain ⟨agenda, tick, u, hu, hcases⟩ := step_next_cases hstep
  have h' : u.ModeInv := by rw [hu]; exact h.congr (by simp) (by simp) rfl rfl rfl rfl
  obtain ⟨c, -, rfl⟩ | ⟨-, rfl⟩ | ⟨-, rfl⟩ | ⟨c, b, -, rfl⟩ | ⟨f, -, rfl⟩ | ⟨-, rfl⟩ := hcases
  · exact runPoll_modeInv h' c
  · exact runWake_modeInv h'
  · exact runIngest_modeInv h'
  · exact h'.modifyCh c _ (h'.scanningIsStarted c) (h'.waitingIsUninitialized c)
  · exact h'.congr (by simp [State.offerFrame]) (by simp [State.offerFrame]) rfl rfl rfl rfl
  · exact (resetWith_modeInv u.cfg).congr (by simp [ch_hardReset, ch_resetWith]) (by simp [ch_hardReset, ch_resetWith])
      rfl rfl rfl rfl

/-! ## R36: the bitmap and the last accepted frame -/

theorem bitmapInv_of_whole {s : State} (hwork : s.ingWork = none) (h : s.BitmapAgrees) : s.BitmapInv := by
  simpa only [State.BitmapInv, hwork] using h

theorem State.BitmapInv.agrees {s : State} (h : s.BitmapInv) (hwork : s.ingWork = none) : s.BitmapAgrees := by
  simpa only [State.BitmapInv, hwork] using h

/-- `BitmapInv` inside a split frame, taken apart. -/
theorem bitmapInv_iff_of_split {s : State} {w : IngestWork} (hwork : s.ingWork = some w) :
    s.BitmapInv ↔ w.todo.Nodup ∧ (∀ k ∈ w.todo, k < Param.nKeys) ∧
      ∀ k, k < Param.nKeys → readKey s.keys k = if k ∈ w.todo then keyBit s.prev k else keyBit w.frame k := by
  simp only [State.BitmapInv, hwork]

/-- `BitmapInv` reads the bitmap, `prev` and the progress of a split frame only. -/
theorem State.BitmapInv.congr {s t : State} (h : s.BitmapInv) (hkeys : t.keys = s.keys) (hprev : t.prev = s.prev)
    (hwork : t.ingWork = s.ingWork) : t.BitmapInv := by
  simpa only [State.BitmapInv, State.BitmapAgrees, hkeys, hprev, hwork] using h

/-- The empty bitmap agrees with the zero frame. -/
theorem bitmapAgrees_of_zero {s : State} (hkeys : s.keys = 0) (hprev : s.prev = Vector.replicate _ 0) :
    s.BitmapAgrees := by
  intro k _
  rw [hkeys, hprev, keyBit, getD_zeroFrame]
  simp [readKey]

theorem resetWith_bitmapInv (cfg : Config) : (State.resetWith cfg).BitmapInv :=
  bitmapInv_of_whole rfl (bitmapAgrees_of_zero rfl rfl)

/-- Settles O53: `State.reset` is the reset state with the decided parameters. -/
theorem resetMeetsBitmapInv : Obligations.ResetMeetsBitmapInv :=
  ⟨resetWith_bitmapInv Config.decided, resetWith_bitmapInv⟩

/-- One step of a split frame: the key written now shows the new frame, and after the last key `prev` is that frame. -/
theorem continueBitmap_bitmapInv {s : State} {w : IngestWork} (hwork : s.ingWork = some w) (h : s.BitmapInv) :
    (continueBitmap w s).BitmapInv := by
  obtain ⟨hnodup, hlt, hread⟩ := (bitmapInv_iff_of_split hwork).mp h
  cases htodo : w.todo with
  | nil =>
    rw [continueBitmap, htodo]
    refine bitmapInv_of_whole rfl fun m hm => ?_
    simpa [htodo] using hread m hm
  | cons k ks =>
    rw [htodo, List.nodup_cons] at hnodup
    simp only [htodo, List.mem_cons] at hlt hread
    rw [continueBitmap, htodo]
    refine (bitmapInv_iff_of_split rfl).mpr ⟨hnodup.2, fun m hm => hlt m (.inr hm), fun m hm => ?_⟩
    rw [readKey_writeKey _ _ _ _ (hlt k (.inl rfl)), hread m hm]
    by_cases hmk : m = k
    · simp [hmk, hnodup.1]
    · simp [hmk]

theorem keyBit_of_not_changed {prev f : RawFrame} {k : Nat} (hk : k < Param.nKeys) (h : k ∉ changedKeys prev f) :
    keyBit f k = keyBit prev k :=
  not_not.mp fun hne => h (mem_changedKeys.mpr ⟨hk, hne⟩)

/-- A whole bitmap frame: a changed key takes the frame's bit, any other key has it already. -/
theorem runIngBitmap_bitmapInv {s : State} (f : RawFrame) (hwork : s.ingWork = none) (h : s.BitmapAgrees) :
    (runIngBitmap f s).BitmapInv := by
  refine bitmapInv_of_whole hwork fun m hm => ?_
  have hwrite := readKey_writeKeys f (changedKeys s.prev f) s.keys m fun k hk => (mem_changedKeys.mp hk).1
  rw [h m hm] at hwrite
  refine hwrite.trans ?_
  by_cases hchanged : m ∈ changedKeys s.prev f
  · exact if_pos hchanged
  · exact (if_neg hchanged).trans (keyBit_of_not_changed hm hchanged).symm

/-- At the start of a split frame no key is written: the keys to write are the changed ones. -/
theorem beginBitmap_bitmapInv {s : State} (f : RawFrame) (h : s.BitmapAgrees) : (beginBitmap f s).BitmapInv := by
  have hlt (k : Nat) (hk : k ∈ changedKeys s.prev f) : k < Param.nKeys := (mem_changedKeys.mp hk).1
  refine (bitmapInv_iff_of_split rfl).mpr ⟨changedKeys_nodup s.prev f, hlt, fun m hm => ?_⟩
  refine (h m hm).trans ?_
  by_cases hchanged : m ∈ changedKeys s.prev f
  · exact (if_pos hchanged).symm
  · exact (keyBit_of_not_changed hm hchanged).symm.trans (if_neg hchanged).symm

/-- INGEST keeps the bitmap equal to `prev`, unless it takes the reset signal and `prev` is not cleared (R203). -/
theorem runIngest_bitmapInv {s : State} (h : s.BitmapInv)
    (hreset : s.ingWork = none → s.ing.head? = some [Param.resetByte] → s.cfg.resetClearsPrev = true) :
    (runIngest s).BitmapInv := by
  obtain ⟨w, hwork, hi⟩ | ⟨-, -, hi⟩ | ⟨f, rest, hwork, hing, hclass⟩ := runIngest_cases s
  · rw [hi]
    exact continueBitmap_bitmapInv hwork h
  · rwa [hi]
  · obtain ⟨hf, hi⟩ | ⟨g, -, ⟨-, hi⟩ | ⟨-, hi⟩⟩ | ⟨-, hi⟩ := hclass
    · rw [hi]
      have hclear : s.cfg.resetClearsPrev = true := hreset hwork (by simp [hing, hf])
      exact bitmapInv_of_whole hwork (bitmapAgrees_of_zero rfl (if_pos hclear))
    · rw [hi]
      exact runIngBitmap_bitmapInv g hwork (h.agrees hwork)
    · rw [hi]
      exact beginBitmap_bitmapInv g (h.agrees hwork)
    · rw [hi]
      exact h.congr rfl rfl rfl

theorem runPoll_bitmapInv {s : State} (h : s.BitmapInv) (c : Channel) : (runPoll c s).BitmapInv := by
  obtain ⟨_, _, _, _, _, _, hp⟩ := runPoll_writes c s
  rw [hp]
  exact h.congr (by simp) (by simp) (by simp)

theorem runWake_bitmapInv {s : State} (h : s.BitmapInv) : (runWake s).BitmapInv := by
  obtain ⟨_, _, _, _, hw⟩ := runWake_writes s
  rw [hw]
  exact h.congr rfl rfl rfl

/-- Settles O54: only INGEST and the reset input write the bitmap, `prev` or the progress of a split frame. -/
theorem stepKeepsBitmapInv : Obligations.StepKeepsBitmapInv := by
  intro s t h hreset hstep
  obtain ⟨agenda, tick, u, hu, hcases⟩ := step_next_cases hstep
  have h' : u.BitmapInv := by rw [hu]; exact h.congr rfl rfl rfl
  obtain ⟨c, -, rfl⟩ | ⟨-, rfl⟩ | ⟨he, rfl⟩ | ⟨c, b, -, rfl⟩ | ⟨f, -, rfl⟩ | ⟨-, rfl⟩ := hcases
  · exact runPoll_bitmapInv h' c
  · exact runWake_bitmapInv h'
  · subst hu
    exact runIngest_bitmapInv h' fun hwork hhead => hreset.resolve_right (not_not_intro ⟨he, hwork, hhead⟩)
  · exact h'.congr (modifyCh_keys u c _) (modifyCh_prev u c _) (modifyCh_ingWork u c _)
  · exact h'.congr rfl rfl rfl
  · exact (resetWith_bitmapInv u.cfg).congr rfl rfl rfl

end Sys2Proof.Machine
end

section
/-!
PROOFS. The step relation (20_memory.md): the event at the head of the agenda runs either its agent's operation or an action
of the environment, on the state with the event taken off; with an empty agenda the event is a free one (R67).
-/

namespace Sys2Proof.Machine

/-- The head of the agenda is the next event. -/
@[simp] theorem nextEvent_withAgenda_cons (s : State) (e : Event) (es : List Event) :
    nextEvent (s.withAgenda (e :: es)) = (e, s.withAgenda es) := rfl

/-- With an empty agenda the free event at the tick is taken, as if it were on the agenda and the tick already counted up. -/
theorem nextEvent_withAgenda_nil (s : State) :
    nextEvent (s.withAgenda []) = nextEvent { s.withAgenda [Config.freeEvent s.tick] with tick := s.tick + 1 } := rfl

/-- A step sees the state through the choice of the next event only. -/
theorem step_congr {s t : State} (h : nextEvent s = nextEvent t) : step s = step t := by
  simp only [step, h]

/-- An agent's event runs that agent's operation (R12). -/
theorem step_withAgenda_of_agent {e : Event} {i : Instr} (h : agentInstr e = some i) (s : State) (es : List Event) :
    step (s.withAgenda (e :: es)) = exec i (s.withAgenda es) := by
  simp only [step, nextEvent_withAgenda_cons, h]

/-- An event that is no agent's is an action of the environment, or the reset input. -/
theorem step_withAgenda_of_environment {e : Event} (h : agentInstr e = none) (s : State) (es : List Event) :
    step (s.withAgenda (e :: es)) = .next (environment e (s.withAgenda es)) := by
  simp only [step, nextEvent_withAgenda_cons, h]

/-- Settles O45: three events are an agent's, three the environment's, and an empty agenda stands for the free event. -/
theorem stepRunsItsEvent : Obligations.StepRunsItsEvent := by
  intro s es
  refine ⟨fun c => ?poll, ?wake, ?ingest, fun c b => ?rx, fun f => ?offer, ?reset, ?free⟩
  case poll | wake | ingest => exact step_withAgenda_of_agent rfl s es
  case rx | offer | reset => exact step_withAgenda_of_environment rfl s es
  case free => exact step_congr (nextEvent_withAgenda_nil s)

end Sys2Proof.Machine
end

section
/-!
PROOFS. The encoding (30_encoding.md): decoder and encoder are inverse to each other (R81 to R85, R94, R95), the opcode map
has seven codes (R82), and the agent of a port runs what the decoder reads there (R150, R180, R200). A unit of a channel is
a `Command`, a unit of the ingest port an `IngestClass`; each gets the bytes it is encoded to, and the decoder's part for it
is shown to be the inverse.
-/

namespace Sys2Proof

/-! ## Commands and their bytes -/

/-- R83: the command is a selector, so its byte is read under `sel_pending`. -/
def Command.isSelector : Command → Bool
  | .nextreadSel _ => true
  | _ => false

/-- The one byte a command is encoded to (R81, R85). -/
def Command.byte (rom : Rom) : Command → Byte
  | .syncver => rom.cmdSyncver
  | .nextread => rom.cmdNextread
  | .nextreadSel sel => sel
  | .unitver => rom.cmdUnitver
  | .myst1 => rom.cmdMyst1
  | .myst2 => rom.cmdMyst2
  | .start => rom.cmdStart
  | .errstat => Param.cmdErrstat
  | .other b => b

theorem encode_command (rom : Rom) (c : Channel) (cmd : Command) :
    encode rom (cmd.instr c) = some ⟨.rx c, cmd.isSelector, [cmd.byte rom]⟩ := by
  cases cmd <;> rfl

theorem Command.instr_eq_nextread_iff {c : Channel} {cmd : Command} : cmd.instr c = .nextread c ↔ cmd = .nextread := by
  cases cmd <;> simp [Command.instr]

theorem Rom.isOther_iff (rom : Rom) (b : Byte) : rom.isOther b = true ↔ b ∉ rom.codes := by
  simp [Rom.isOther]

/-! ## The opcode map -/

/-- The rows of the opcode map with a code of their own, in the order of `RomData.codes`. -/
def opcodeRows : List Command := [.syncver, .nextread, .unitver, .myst1, .myst2, .start, .errstat]

theorem opcodeRows_map_byte (rom : Rom) : opcodeRows.map (·.byte rom) = rom.codes := rfl

theorem byte_mem_codes (rom : Rom) {cmd : Command} (h : cmd ∈ opcodeRows) : cmd.byte rom ∈ rom.codes :=
  opcodeRows_map_byte rom ▸ List.mem_map_of_mem h

/-- R7: no two rows share a code. -/
theorem byte_injOn_opcodeRows (rom : Rom) {row row' : Command} (h : row ∈ opcodeRows) (h' : row' ∈ opcodeRows)
    (heq : row.byte rom = row'.byte rom) : row = row' :=
  List.inj_on_of_nodup_map (opcodeRows_map_byte rom ▸ rom.codes_nodup) h h' heq

/-- All that the opcode map can answer: the row whose code the byte is, or OTHER where it is no code. -/
theorem decodeOpcode_cases (rom : Rom) (b : Byte) :
    (decodeOpcode rom b ∈ opcodeRows ∧ (decodeOpcode rom b).byte rom = b) ∨
      (decodeOpcode rom b = .other b ∧ b ∉ rom.codes) := by
  unfold decodeOpcode
  split_ifs
  case neg => exact .inr ⟨rfl, by simp [RomData.codes, *]⟩
  all_goals exact .inl ⟨by decide, Eq.symm (by assumption)⟩

theorem decodeOpcode_of_row (rom : Rom) {row : Command} (h : row ∈ opcodeRows) :
    decodeOpcode rom (row.byte rom) = row := by
  obtain ⟨hrow, hbyte⟩ | ⟨-, hno⟩ := decodeOpcode_cases rom (row.byte rom)
  · exact byte_injOn_opcodeRows rom hrow h hbyte
  · exact absurd (byte_mem_codes rom h) hno

theorem decodeOpcode_eq_other_iff (rom : Rom) (b : Byte) : decodeOpcode rom b = .other b ↔ b ∉ rom.codes := by
  obtain ⟨hrow, hbyte⟩ | ⟨hother, hno⟩ := decodeOpcode_cases rom b
  · refine ⟨fun h => ?_, fun hno => absurd (hbyte ▸ byte_mem_codes rom hrow) hno⟩
    simp [h, opcodeRows] at hrow
  · exact iff_of_true hother hno

/-! ## Decoding one byte of a channel -/

theorem isSelector_of_mem_opcodeRows : ∀ row ∈ opcodeRows, row.isSelector = false := by decide

theorem decodeByte_of_row (rom : Rom) (row : Command) (h : row ∈ opcodeRows) :
    decodeByte rom row.isSelector (row.byte rom) = row := by
  rw [isSelector_of_mem_opcodeRows row h]
  exact decodeOpcode_of_row rom h

/-- R83, R82: a well-formed command is read back from its byte. -/
theorem decodeByte_byte {rom : Rom} {c : Channel} {cmd : Command} (h : (cmd.instr c).wf rom = true) :
    decodeByte rom cmd.isSelector (cmd.byte rom) = cmd := by
  cases cmd with
  | nextreadSel sel => rfl
  | other b => exact (decodeOpcode_eq_other_iff rom b).mpr ((rom.isOther_iff b).mp h)
  | syncver | nextread | unitver | myst1 | myst2 | start | errstat => exact decodeByte_of_row rom _ (by decide)

theorem wf_of_mem_opcodeRows (rom : Rom) (c : Channel) {row : Command} (h : row ∈ opcodeRows) :
    (row.instr c).wf rom = true := by
  cases row with
  | other b => simp [opcodeRows] at h
  | _ => rfl

/-- What a byte of a channel decodes to is well formed, is a selector just where one is awaited, and has that byte. -/
theorem decodeByte_spec (rom : Rom) (c : Channel) (selPending : Bool) (b : Byte) :
    ((decodeByte rom selPending b).instr c).wf rom = true ∧
      (decodeByte rom selPending b).isSelector = selPending ∧ (decodeByte rom selPending b).byte rom = b := by
  cases selPending with
  | true => exact ⟨rfl, rfl, rfl⟩
  | false =>
    obtain ⟨hrow, hbyte⟩ | ⟨hother, hno⟩ := decodeOpcode_cases rom b
    · exact ⟨wf_of_mem_opcodeRows rom c hrow, isSelector_of_mem_opcodeRows _ hrow, hbyte⟩
    · simp only [decodeByte, Bool.false_eq_true, if_false, hother]
      exact ⟨(rom.isOther_iff b).mpr hno, rfl, rfl⟩

/-- Next-read is decoded from its own code alone, and only where no selector is awaited. -/
theorem decodeByte_eq_nextread_iff (rom : Rom) (selPending : Bool) (b : Byte) :
    decodeByte rom selPending b = .nextread ↔ selPending = false ∧ b = rom.cmdNextread := by
  constructor
  · intro h
    obtain ⟨-, hsel, hbyte⟩ := decodeByte_spec rom .R selPending b
    rw [h] at hsel hbyte
    exact ⟨hsel.symm, hbyte.symm⟩
  · rintro ⟨rfl, rfl⟩
    exact decodeByte_of_row rom .nextread (by decide)

/-! ## Ingest frames and their bytes -/

/-- The frame an ingest class is encoded to (R94, R95). -/
def IngestClass.bytes : IngestClass → List Byte
  | .reset => [Param.resetByte]
  | .bitmap f => f.toList
  | .malformed f => f

theorem encode_ingestClass (rom : Rom) (k : IngestClass) : encode rom k.instr = some ⟨.ing, false, k.bytes⟩ := by
  cases k <;> rfl

/-- R94: a well-formed ingest class is read back from its frame. -/
theorem classifyFrame_bytes {rom : Rom} {k : IngestClass} (h : k.instr.wf rom = true) : classifyFrame k.bytes = k := by
  cases k with
  | reset => exact classifyFrame_reset
  | bitmap f => exact classifyFrame_bitmap f
  | malformed f => exact classifyFrame_malformed h

/-- R94: every frame is the frame of a well-formed class. -/
theorem exists_ingestClass (rom : Rom) (f : List Byte) : ∃ k : IngestClass, k.instr.wf rom = true ∧ k.bytes = f := by
  by_cases hreset : f = [Param.resetByte]
  · exact ⟨.reset, rfl, hreset.symm⟩
  by_cases hlen : f.length = Param.rawLen
  · exact ⟨.bitmap ⟨f.toArray, by simpa using hlen⟩, rfl, rfl⟩
  · have hmalformed : isMalformedFrame f = true := by simp [isMalformedFrame, hreset, hlen]
    exact ⟨.malformed f, hmalformed, rfl⟩

/-- What a frame decodes to is well formed and has that frame. -/
theorem classifyFrame_spec (rom : Rom) (f : List Byte) :
    (classifyFrame f).instr.wf rom = true ∧ (classifyFrame f).bytes = f := by
  obtain ⟨k, hwf, rfl⟩ := exists_ingestClass rom f
  rw [classifyFrame_bytes hwf]
  exact ⟨hwf, rfl⟩

/-! ## Units -/

/-- All that has an encoding: a command on a channel, or an ingest frame. -/
theorem command_or_ingestClass_of_encode {rom : Rom} {i : Instr} {u : InboundUnit} (h : encode rom i = some u) :
    (∃ c cmd, i = Command.instr c cmd) ∨ ∃ k : IngestClass, i = k.instr := by
  cases i with
  | syncver c => exact .inl ⟨c, .syncver, rfl⟩
  | nextread c => exact .inl ⟨c, .nextread, rfl⟩
  | nextreadSel c sel => exact .inl ⟨c, .nextreadSel sel, rfl⟩
  | unitver c => exact .inl ⟨c, .unitver, rfl⟩
  | myst1 c => exact .inl ⟨c, .myst1, rfl⟩
  | myst2 c => exact .inl ⟨c, .myst2, rfl⟩
  | start c => exact .inl ⟨c, .start, rfl⟩
  | errstat c => exact .inl ⟨c, .errstat, rfl⟩
  | other c b => exact .inl ⟨c, .other b, rfl⟩
  | ingReset => exact .inr ⟨.reset, rfl⟩
  | ingBitmap f => exact .inr ⟨.bitmap f, rfl⟩
  | ingMalformed f => exact .inr ⟨.malformed f, rfl⟩
  | remap | unmap | pack | setkey | checksum | buildframe | verify | dispatch | poll | wake | send | ingest =>
    cases h

theorem decode_channel (rom : Rom) (c : Channel) (selPending : Bool) (b : Byte) (rest : List Byte) :
    decode rom ⟨.rx c, selPending, b :: rest⟩ = .ok ((decodeByte rom selPending b).instr c, rest) := rfl

theorem decode_ingest (rom : Rom) (selPending : Bool) (f : List Byte) :
    decode rom ⟨.ing, selPending, f⟩ = .ok ((classifyFrame f).instr, []) := rfl

/-- A channel decodes only with a byte in it, which is the one taken. -/
theorem exists_byte_of_decode_channel {rom : Rom} {c : Channel} {selPending : Bool} {q rest : List Byte} {i : Instr}
    (h : decode rom ⟨.rx c, selPending, q⟩ = .ok (i, rest)) :
    ∃ b, q = b :: rest ∧ i = (decodeByte rom selPending b).instr c := by
  cases q with
  | nil => cases h
  | cons b q =>
    cases h
    exact ⟨b, rfl, rfl⟩

/-- Settles O1: what has an encoding is a command or an ingest frame, and each is read back from its bytes. -/
theorem decodeOfEncodeGivesInstruction : Obligations.DecodeOfEncodeGivesInstruction := by
  intro rom i u hwf henc
  obtain ⟨c, cmd, rfl⟩ | ⟨k, rfl⟩ := command_or_ingestClass_of_encode henc
  · rw [encode_command, Option.some.injEq] at henc
    rw [← henc, decode_channel, decodeByte_byte hwf]
  · rw [encode_ingestClass, Option.some.injEq] at henc
    rw [← henc, decode_ingest, classifyFrame_bytes hwf]

/-- Settles O2: the byte or frame taken is that of the command or class it decodes to. -/
theorem encodeOfDecodeGivesUnit : Obligations.EncodeOfDecodeGivesUnit := by
  rintro rom ⟨c | _, selPending, bytes⟩ i rest hdec
  case rx =>
    obtain ⟨b, rfl, rfl⟩ := exists_byte_of_decode_channel hdec
    obtain ⟨hwf, hsel, hbyte⟩ := decodeByte_spec rom c selPending b
    refine ⟨hwf, ?_, rfl⟩
    rw [encode_command, hsel, hbyte]
    rfl
  case ing =>
    obtain ⟨hwf, hbytes⟩ := classifyFrame_spec rom bytes
    rw [decode_ingest] at hdec
    cases hdec
    refine ⟨hwf, ?_, rfl⟩
    rw [encode_ingestClass, hbytes]

/-- Settles O3: five units compute; the frame of 30 equal bytes is the byte list of a raw frame. -/
theorem specWordsDecode : Obligations.SpecWordsDecode := by
  intro rom c
  refine ⟨rfl, rfl, rfl, rfl, ?_, rfl⟩
  have hclass : classifyFrame (List.replicate 30 0x47) = .bitmap (Vector.replicate 30 0x47) :=
    classifyFrame_bitmap (Vector.replicate 30 0x47)
  rw [decode_ingest, hclass]
  rfl

/-! ## How many bytes are OTHER -/

/-- The 256 byte values, in ascending order. -/
def allBytes : List Byte := (List.range 256).map (BitVec.ofNat 8)

theorem mem_allBytes (b : Byte) : b ∈ allBytes :=
  List.mem_map.mpr ⟨b.toNat, List.mem_range.mpr b.isLt, by simp⟩

theorem allBytes_nodup : allBytes.Nodup :=
  List.nodup_range.map_on fun m hm n hn h => by
    simpa [Nat.mod_eq_of_lt (List.mem_range.mp hm), Nat.mod_eq_of_lt (List.mem_range.mp hn)]
      using congrArg BitVec.toNat h

/-- Of the 256 byte values, all but those of a duplicate-free list are outside it. -/
theorem length_filter_not_mem_allBytes {codes : List Byte} (h : codes.Nodup) :
    (allBytes.filter fun b => b ∉ codes).length + codes.length = 256 := by
  have hperm : (allBytes.filter fun b => b ∈ codes).Perm codes :=
    (List.perm_ext_iff_of_nodup (allBytes_nodup.filter _) h).mpr fun b => by simp [mem_allBytes]
  have hsplit := List.length_eq_length_filter_add (l := allBytes) fun b => b ∈ codes
  have hlen : allBytes.length = 256 := by simp [allBytes]
  rw [hlen, hperm.length_eq] at hsplit
  simp only [← decide_not] at hsplit
  omega

/-- Settles O4: a byte is OTHER just when it is none of the seven codes, which are pairwise distinct. -/
theorem opcodeMapHasSevenCodes : Obligations.OpcodeMapHasSevenCodes := by
  intro rom
  have hrow (row : Command) (h : row ∈ opcodeRows) := decodeOpcode_of_row rom h
  refine ⟨hrow .syncver (by decide), hrow .nextread (by decide), hrow .unitver (by decide), hrow .myst1 (by decide),
    hrow .myst2 (by decide), hrow .start (by decide), hrow .errstat (by decide), ?_⟩
  have hcount := length_filter_not_mem_allBytes rom.codes_nodup
  have hseven : rom.codes.length = 7 := rfl
  rw [allBytes, List.filter_map, List.length_map, hseven] at hcount
  simp only [decodeOpcode_eq_other_iff]
  exact Nat.add_right_cancel hcount

end Sys2Proof

namespace Sys2Proof.Machine

/-! ## The agent of a port runs what the decoder reads there -/

/-- With `RX_DRAIN = false` a poll leaves the rest of the queue. -/
theorem drain_of_not_rxDrain {s : State} (h : s.cfg.rxDrain = false) (c : Channel) : drain c s = s := by
  simp [drain, h]

theorem PollerWrites.cfg_eq {c : Channel} {s t : State} (h : PollerWrites c s t) : t.cfg = s.cfg := by
  obtain ⟨_, _, _, _, _, _, rfl⟩ := h
  exact modifyCh_cfg s c _

/-- R180: a poll is one dispatch, and goes on to a selector where the byte decodes to next-read. -/
theorem runPoll_of_cons {s : State} {c : Channel} {b : Byte} {q : List Byte} (hdrain : s.cfg.rxDrain = false)
    (hq : (s.ch c).rxq = b :: q) :
    runPoll c s =
      if decodeByte s.cfg.rom (s.ch c).selPending b = .nextread then takeSelector c (runDispatch c b (s.setRxq c q))
      else runDispatch c b (s.setRxq c q) := by
  have hdispatch := (setRxq_writes c q s).trans (runDispatch_writes c b _)
  have hselector := hdispatch.trans (takeSelector_writes c _)
  simp only [decodeByte_eq_nextread_iff]
  obtain ⟨hempty, -⟩ | ⟨b', q', hq', hcases⟩ := runPoll_cases c s
  · simp [hq] at hempty
  · obtain ⟨rfl, rfl⟩ := List.cons.inj (hq.symm.trans hq')
    obtain ⟨hother, hp⟩ | ⟨hnext, hp⟩ := hcases
    · rw [hp, if_neg (by simpa [or_iff_not_imp_left] using hother), drain_of_not_rxDrain (hdispatch.cfg_eq ▸ hdrain)]
    · rw [hp, if_pos hnext, drain_of_not_rxDrain (hselector.cfg_eq ▸ hdrain)]

/-- Next-read's command byte sets the two flags of its channel (R152). -/
theorem runNextread_eq (c : Channel) (s : State) :
    runNextread c s = s.modifyCh c fun ch => { ch with init := false, selPending := true } := by
  rw [runNextread, setInit_eq, setSelPending_eq, modifyCh_modifyCh]

theorem takeSelector_of_empty {s : State} {c : Channel} (h : (s.ch c).rxq = []) : takeSelector c s = s := by
  simp [takeSelector, rxPop_of_empty h]

/-- R83: while a selector is awaited the byte taken is one. -/
theorem takeSelector_of_cons {s : State} {c : Channel} {sel : Byte} {q : List Byte}
    (hwait : (s.ch c).selPending = true) (h : (s.ch c).rxq = sel :: q) :
    takeSelector c s = runNextreadSel c sel (s.setRxq c q) := by
  simp [takeSelector, rxPop_of_cons h, runDispatch, decodeByte, runCommand, setRxq_eq, hwait]

/-- The queue is not read or written by next-read's command byte. -/
theorem setRxq_runNextread (c : Channel) (s : State) (q q' : List Byte) :
    (runNextread c (s.setRxq c q)).setRxq c q' = runNextread c (s.setRxq c q') := by
  simp only [runNextread_eq, setRxq_eq, modifyCh_modifyCh]

/-- The byte taken off a channel decodes as it did at the head of the queue. -/
theorem runDispatch_setRxq (s : State) (c : Channel) (b : Byte) (q : List Byte) :
    runDispatch c b (s.setRxq c q) = runCommand c (decodeByte s.cfg.rom (s.ch c).selPending b) (s.setRxq c q) := by
  simp [runDispatch, setRxq_eq]

section
variable {s : State} {c : Channel} {rest : List Byte} (hdrain : s.cfg.rxDrain = false)
include hdrain

/-- R150, R180: a poll of one byte runs what the queue decodes to. -/
theorem exec_poll_of_one_byte {i : Instr}
    (hdec : decode s.cfg.rom ⟨.rx c, (s.ch c).selPending, (s.ch c).rxq⟩ = .ok (i, rest))
    (hone : i ≠ .nextread c ∨ rest = []) : exec (.poll c) s = exec i (s.setRxq c rest) := by
  obtain ⟨b, hq, rfl⟩ := exists_byte_of_decode_channel hdec
  have hpoll : runPoll c s = runDispatch c b (s.setRxq c rest) := by
    rw [runPoll_of_cons hdrain hq]
    split
    case isFalse => rfl
    case isTrue hb =>
      obtain rfl : rest = [] := hone.resolve_left (not_not_intro (congrArg (Command.instr c) hb))
      rw [runDispatch_setRxq, hb]
      exact takeSelector_of_empty (by simp [runCommand, runNextread_eq, setRxq_eq])
  rw [exec_command, ← runDispatch_setRxq, ← hpoll]
  rfl

/-- R152, R153, R180: a poll of next-read with a byte behind it runs next-read and then its selector. -/
theorem exec_poll_of_two_bytes {sel : Byte}
    (hdec : decode s.cfg.rom ⟨.rx c, (s.ch c).selPending, (s.ch c).rxq⟩ = .ok (.nextread c, sel :: rest)) :
    exec (.poll c) s = exec (.nextreadSel c sel) (runNextread c (s.setRxq c rest)) := by
  obtain ⟨b, hq, hi⟩ := exists_byte_of_decode_channel hdec
  have hb := Command.instr_eq_nextread_iff.mp hi.symm
  have hpoll : runPoll c s = runNextreadSel c sel (runNextread c (s.setRxq c rest)) := by
    have hwait : ((runNextread c (s.setRxq c (sel :: rest))).ch c).selPending = true := by simp [runNextread_eq]
    have hqueue : ((runNextread c (s.setRxq c (sel :: rest))).ch c).rxq = sel :: rest := by
      simp [runNextread_eq, setRxq_eq]
    rw [runPoll_of_cons hdrain hq, if_pos hb, runDispatch_setRxq, hb, runCommand, takeSelector_of_cons hwait hqueue,
      setRxq_runNextread]
  exact congrArg _ hpoll

end

/-- R200: with no frame in progress, INGEST is what the first frame decodes to. -/
theorem exec_classifyFrame {s : State} {f : List Byte} {frames : List (List Byte)} (hing : s.ing = f :: frames)
    (hwork : s.ingWork = none) (hatomic : s.cfg.ingestAtomic = true) :
    exec (classifyFrame f).instr { s with ing := frames } = .next (runIngest s) := by
  simp only [runIngest, hwork, State.ingestNext, hing]
  cases classifyFrame f with
  | reset => rfl
  | bitmap g => simp only [hatomic, if_true]; rfl
  | malformed g => rfl

/-- Settles O46: a step with an agent's event is that agent's operation, whose port is not touched by taking the event. -/
theorem stepRunsDecodedUnit : Obligations.StepRunsDecodedUnit := by
  intro s es i rest
  have hch (c : Channel) : (s.withAgenda es).ch c = s.ch c := by cases c <;> rfl
  refine ⟨fun c hdrain hdec => ?_, fun f frames hing hwork hatomic hdec => ?_⟩
  · have hdrain' : (s.withAgenda es).cfg.rxDrain = false := hdrain
    rw [← hch c] at hdec
    rw [step_withAgenda_of_agent (e := .poll c) rfl]
    refine ⟨exec_poll_of_one_byte hdrain' hdec, ?_⟩
    rintro sel rest' rfl rfl
    exact ⟨_, rfl, exec_poll_of_two_bytes hdrain' hdec⟩
  · rw [step_withAgenda_of_agent (e := .ingest) rfl]
    rw [decode_ingest] at hdec
    cases hdec
    exact (exec_classifyFrame (s := s.withAgenda es) hing hwork hatomic).symm

end Sys2Proof.Machine
end

section
/-!
PROOFS. PacketCodec (40_codec.md), the addresses: REMAP in closed form (R110, R111), and UNMAP as its exact inverse (R113).
That no two keys share an address (R112) follows from the inverse.
-/

namespace Sys2Proof.Machine

theorem exec_remap_of_lt {k : Nat} (hk : k < 240) (s : State) :
    exec (.remap k) s = .next { s with result := .remap (remap k).1 (remap k).2 } :=
  if_pos hk

theorem exec_remap_of_ge {k : Nat} (hk : 240 ≤ k) (s : State) : exec (.remap k) s = .refused .keyOutOfRange :=
  if_neg (Nat.not_lt.mpr hk)

/-- Settles O5: the three ranges of the index, with REMAP as R110 writes it. -/
theorem remapFollowsFormula : Obligations.RemapFollowsFormula := by
  refine fun k s => ⟨fun hR => ?_, fun hL hlt => ?_, fun hge => exec_remap_of_ge (by omega) s⟩
  · rw [exec_remap_of_lt (by omega), remap_eq, if_pos hR]
  · rw [exec_remap_of_lt (by omega), remap_eq, if_neg (by omega)]

/-- R111: five keys go into each byte, from byte 1 of their channel on. -/
theorem remap_eq_closed {k : Nat} (hk : k < 240) :
    remap k = (if k < 120 then .R else .L, 8 * (1 + k % 120 / 5) + k % 120 % 5) := by
  rw [remap_eq]
  by_cases hR : k < 120
  · rw [if_pos (by omega), if_pos hR, Prod.mk.injEq]
    exact ⟨rfl, by omega⟩
  · rw [if_neg (by omega), if_neg hR, Prod.mk.injEq]
    exact ⟨rfl, by omega⟩

/-- R113: UNMAP undoes REMAP. -/
theorem unmap_remap {k : Nat} (hk : k < 240) : unmap (remap k).1 (remap k).2 = some k := by
  rw [remap_eq_closed hk, unmap_eq, if_neg (by omega), Option.some.injEq]
  split
  · rw [baseKey_R]
    omega
  · rw [baseKey_L]
    omega

/-- R113: UNMAP answers the one key whose address it is given. -/
theorem unmap_eq_some_iff {c : Channel} {off k : Nat} : unmap c off = some k ↔ k < 240 ∧ remap k = (c, off) := by
  constructor
  · intro h
    rw [unmap_eq, Option.ite_none_left_eq_some, Option.some.injEq] at h
    obtain ⟨hoff, rfl⟩ := h
    cases c with
    | R =>
      rw [baseKey_R, remap_eq_closed (by omega), if_pos (by omega), Prod.mk.injEq]
      exact ⟨by omega, rfl, by omega⟩
    | L =>
      rw [baseKey_L, remap_eq_closed (by omega), if_neg (by omega), Prod.mk.injEq]
      exact ⟨by omega, rfl, by omega⟩
  · rintro ⟨hk, hremap⟩
    simpa only [hremap] using unmap_remap hk

theorem unmap_eq_none_iff {c : Channel} {off : Nat} : unmap c off = none ↔ off < 8 ∨ 196 < off ∨ 4 < off % 8 := by
  rw [unmap_eq]
  split <;> simp [*]

/-- R112: the offset of a key lies in a data byte. -/
theorem remap_snd_mem {k : Nat} (hk : k < 240) : 8 ≤ (remap k).2 ∧ (remap k).2 ≤ 196 := by
  rw [remap_eq_closed hk]
  omega

/-- R112: UNMAP answers a key only in the data bytes. -/
theorem mem_of_unmap_eq_some {c : Channel} {off k : Nat} (h : unmap c off = some k) : 8 ≤ off ∧ off ≤ 196 := by
  obtain ⟨hk, haddr⟩ := unmap_eq_some_iff.mp h
  simpa only [haddr] using remap_snd_mem hk

/-- Settles O6: the closed form read off field by field; REMAP has a left inverse. -/
theorem remapIsInjective : Obligations.RemapIsInjective := by
  refine ⟨fun k hk => ⟨?channel, ?byte, ?bit, remap_snd_mem hk⟩, fun k k' hk hk' h => ?injective⟩
  case channel => rw [remap_eq_closed hk]
  case byte =>
    rw [remap_eq_closed hk, byteOf]
    omega
  case bit =>
    rw [remap_eq_closed hk, bitOf]
    omega
  case injective => exact Option.some.inj ((unmap_remap hk).symm.trans (h ▸ unmap_remap hk'))

/-- Settles O7: UNMAP's three laws. -/
theorem unmapInvertsRemap : Obligations.UnmapInvertsRemap :=
  ⟨fun _ _ _ => rfl, fun _ => unmap_remap, fun _ _ _ => unmap_eq_some_iff.mp, fun _ _ => unmap_eq_none_iff⟩

end Sys2Proof.Machine
end

section
/-!
PROOFS. PacketCodec (40_codec.md), the packed bytes: PACK (R115) and SETKEY (R123) read bit by bit. A bit of `P[1..33]` has
one offset in 8..271 (R142); PACK puts there the key that UNMAP answers, and 0 where it answers none.
-/

namespace Sys2Proof.Machine

/-- The bit of the packed bytes that a packed offset names (R60). -/
def packedBit (p : Packed) (off : Nat) : Bool := (packedByte p (byteOf off)).getLsbD (bitOf off)

theorem bitOf_lt (off : Nat) : bitOf off < 8 := Nat.mod_lt off (by decide)

theorem getLsbD_packedByte (p : Packed) (b : Nat) {j : Nat} (hj : j < 8) :
    (packedByte p b).getLsbD j = packedBit p (8 * b + j) := by
  have hbyte : byteOf (8 * b + j) = b := by rw [byteOf]; omega
  have hbit : bitOf (8 * b + j) = j := by rw [bitOf]; omega
  rw [packedBit, hbyte, hbit]

/-- R142: packed bytes are their bits at the offsets 8..271. -/
theorem packed_ext {p q : Packed} (h : ∀ off, 8 ≤ off → off < 272 → packedBit p off = packedBit q off) : p = q := by
  refine Vector.ext fun i (hi : i < 33) => BitVec.eq_of_getLsbD_eq fun j hj => ?_
  have hbit := h (8 * (i + 1) + j) (by omega) (by omega)
  rw [← getLsbD_packedByte p _ hj, ← getLsbD_packedByte q _ hj] at hbit
  simpa only [packedByte_eq _ (i + 1) (by omega), Nat.add_sub_cancel] using hbit

/-- Read after write of one packed bit. -/
theorem packedBit_setPackedBit (p : Packed) (v : Bool) {off o : Nat} (hoff : 8 ≤ off ∧ off < 272)
    (ho : 8 ≤ o ∧ o < 272) : packedBit (setPackedBit p off v) o = if o = off then v else packedBit p o := by
  have hwrite := packedByte_writePackedByte p (byteOf off) (byteOf o)
    (writeBit (packedByte p (byteOf off)) (bitOf off) v) (by unfold byteOf; omega) (by unfold byteOf; omega)
  rw [packedBit, setPackedBit, hwrite]
  by_cases hbyte : byteOf o = byteOf off
  · have hbit : bitOf o = bitOf off ↔ o = off := by unfold byteOf at hbyte; unfold bitOf; omega
    rw [if_pos hbyte, getLsbD_writeBit _ _ _ _ (bitOf_lt off), packedBit, hbyte]
    simp only [hbit]
  · rw [if_neg hbyte, if_neg (fun h => hbyte (congrArg byteOf h)), packedBit]

/-- Settles O9: inside `P[1..33]` SETKEY writes one packed bit. -/
theorem setkeyWritesOneBit : Obligations.SetkeyWritesOneBit := by
  refine fun p off v => ⟨setkey p off v, fun _ => rfl, fun hlo hhi o holo hohi => ?_⟩
  rw [setkey_of_mem p off v ⟨hlo, hhi⟩]
  exact packedBit_setPackedBit p v ⟨hlo, hhi⟩ ⟨holo, hohi⟩

/-! ## PACK -/

theorem mem_channelKeys {c : Channel} {k : Nat} : k ∈ channelKeys c ↔ k < 240 ∧ (remap k).1 = c := by
  have hmem : k ∈ channelKeys c ↔ ∃ a < 120, baseKey c + a = k := by simp [channelKeys]
  rw [hmem]
  constructor
  · rintro ⟨a, ha, rfl⟩
    cases c with
    | R =>
      rw [baseKey_R, remap_eq_closed (by omega), if_pos (by omega)]
      exact ⟨by omega, rfl⟩
    | L =>
      rw [baseKey_L, remap_eq_closed (by omega), if_neg (by omega)]
      exact ⟨by omega, rfl⟩
  · rintro ⟨hk, rfl⟩
    obtain hR | hL := Nat.lt_or_ge k 120
    · rw [remap_eq_closed hk, if_pos hR]
      exact ⟨k, hR, Nat.zero_add k⟩
    · rw [remap_eq_closed hk, if_neg (by omega)]
      exact ⟨k - 120, by omega, Nat.add_sub_cancel' hL⟩

/-- PACK's loop sets the bits of the pressed keys of its list and leaves the others. -/
theorem packedBit_foldl_setPackedBit (keys : Keys) (ks : List Nat) (p : Packed) (hks : ∀ k ∈ ks, k < 240) {off : Nat}
    (hoff : 8 ≤ off ∧ off < 272) :
    packedBit (ks.foldl (fun p k => if readKey keys k then setPackedBit p (remap k).2 true else p) p) off = true ↔
      packedBit p off = true ∨ ∃ k ∈ ks, (remap k).2 = off ∧ readKey keys k = true := by
  induction ks generalizing p with
  | nil => simp
  | cons k ks ih =>
    obtain ⟨hk, hks⟩ := List.forall_mem_cons.mp hks
    have hkoff := remap_snd_mem hk
    rw [List.foldl_cons, ih _ hks, List.exists_mem_cons_iff, ← or_assoc]
    refine or_congr_left ?_
    cases hread : readKey keys k with
    | false => simp
    | true =>
      rw [if_pos rfl, packedBit_setPackedBit p true ⟨hkoff.1, by omega⟩ hoff]
      by_cases hsame : off = (remap k).2
      · simp [hsame]
      · simp [hsame, Ne.symm hsame]

theorem packedBit_replicate_zero (off : Nat) : packedBit (Vector.replicate 33 0) off = false := by
  simp [packedBit, packedByte, Vector.getD, Array.getD]

/-- R115: a bit of the packed bytes is set just when UNMAP answers a key there, and that key is pressed. -/
theorem packedBit_pack_iff (keys : Keys) (c : Channel) {off : Nat} (hoff : 8 ≤ off ∧ off < 272) :
    packedBit (pack keys c) off = true ↔ ∃ k, unmap c off = some k ∧ readKey keys k = true := by
  rw [pack_eq, packedBit_foldl_setPackedBit keys _ _ (fun k hk => (mem_channelKeys.mp hk).1) hoff,
    packedBit_replicate_zero, or_iff_right Bool.false_ne_true]
  simp only [mem_channelKeys, unmap_eq_some_iff, Prod.ext_iff, and_assoc]

/-- R115: the place of a key of the channel holds the key. -/
theorem packedBit_pack_of_unmap_some (keys : Keys) {c : Channel} {off k : Nat} (h : unmap c off = some k) :
    packedBit (pack keys c) off = readKey keys k := by
  have hoff := mem_of_unmap_eq_some h
  rw [Bool.eq_iff_iff, packedBit_pack_iff keys c (by omega), h]
  simp

/-- R92: any other place is filler, and 0. -/
theorem packedBit_pack_of_unmap_none (keys : Keys) {c : Channel} {off : Nat} (hoff : 8 ≤ off ∧ off < 272)
    (h : unmap c off = none) : packedBit (pack keys c) off = false := by
  rw [Bool.eq_false_iff, ne_eq, packedBit_pack_iff keys c hoff, h]
  simp

/-- R91: the key at bit `j` of data byte `b`. -/
theorem unmap_data_bit (c : Channel) {b j : Nat} (hb : 1 ≤ b ∧ b ≤ 24) (hj : j < 5) :
    unmap c (8 * b + j) = some (baseKey c + 5 * (b - 1) + j) := by
  rw [unmap_eq, if_neg (by omega), Option.some.injEq]
  omega

/-- R91, R92: a data byte holds five keys, and filler above them. -/
theorem getLsbD_packedByte_pack (keys : Keys) (c : Channel) {b j : Nat} (hb : 1 ≤ b ∧ b ≤ 24) (hj : j < 8) :
    (packedByte (pack keys c) b).getLsbD j = (decide (j < 5) && readKey keys (baseKey c + 5 * (b - 1) + j)) := by
  rw [getLsbD_packedByte _ _ hj]
  by_cases hkey : j < 5
  · rw [packedBit_pack_of_unmap_some _ (unmap_data_bit c hb hkey), decide_eq_true hkey, Bool.true_and]
  · rw [packedBit_pack_of_unmap_none _ (by omega) (unmap_eq_none_iff.mpr (by omega)), decide_eq_false hkey,
      Bool.false_and]

/-- R92: the bytes after the data bytes are 0. -/
theorem packedByte_pack_eq_zero (keys : Keys) (c : Channel) {b : Nat} (hb : 25 ≤ b ∧ b ≤ 33) :
    packedByte (pack keys c) b = 0 := by
  refine BitVec.eq_of_getLsbD_eq fun j hj => ?_
  rw [getLsbD_packedByte _ _ hj, packedBit_pack_of_unmap_none _ (by omega) (unmap_eq_none_iff.mpr (by omega))]
  exact BitVec.getLsbD_zero.symm

/-- Settles O8: the bytes of PACK on each channel, whose first key is `baseKey`. -/
theorem packPlacesEveryKey : Obligations.PackPlacesEveryKey := by
  refine fun c s => ⟨pack s.keys c, rfl, fun b j hlo hhi hj => ?_, fun b hlo hhi => ?_⟩
  · cases c with
    | R => exact getLsbD_packedByte_pack s.keys .R ⟨hlo, hhi⟩ hj
    | L => exact getLsbD_packedByte_pack s.keys .L ⟨hlo, hhi⟩ hj
  · exact packedByte_pack_eq_zero s.keys c ⟨hlo, hhi⟩

/-- Settles O10: at the place of `k` both sides hold `v`; every other place holds another key, or filler. -/
theorem setkeyTracksPack : Obligations.SetkeyTracksPack := by
  intro keys k v s hk
  have hkoff := remap_snd_mem hk
  suffices hpack : setkey (pack keys (remap k).1) (remap k).2 v = pack (writeKey keys k v) (remap k).1 by
    rw [← hpack]
    rfl
  rw [setkey_of_mem _ _ _ (by omega)]
  refine packed_ext fun off hlo hhi => ?_
  rw [packedBit_setPackedBit _ _ (by omega) ⟨hlo, hhi⟩]
  cases hunmap : unmap (remap k).1 off with
  | none =>
    have hne : off ≠ (remap k).2 := fun h => by simp [h, unmap_remap hk] at hunmap
    rw [if_neg hne, packedBit_pack_of_unmap_none _ ⟨hlo, hhi⟩ hunmap, packedBit_pack_of_unmap_none _ ⟨hlo, hhi⟩ hunmap]
  | some m =>
    obtain ⟨hm, haddr⟩ := unmap_eq_some_iff.mp hunmap
    have hsame : off = (remap k).2 ↔ m = k := by
      constructor
      · rintro rfl
        exact Option.some.inj (hunmap.symm.trans (unmap_remap hk))
      · rintro rfl
        rw [haddr]
    rw [packedBit_pack_of_unmap_some _ hunmap, packedBit_pack_of_unmap_some _ hunmap, readKey_writeKey _ _ _ _ hk]
    simp only [hsame]

end Sys2Proof.Machine
end

section
/-!
PROOFS. PacketCodec (40_codec.md), the frame: CHECKSUM is a parity (R116), BUILDFRAME lays a frame out byte by byte (R117),
and VERIFY accepts just the frames so laid out whose filler is 0 (R119). PACK gives such filler, so every built frame is
valid (R120); and packed bytes with such filler are PACK of the keys read off them, so every valid frame is built.
-/

namespace Sys2Proof.Machine

/-! ## CHECKSUM -/

theorem getLsbD_foldl_xor (s : List Byte) (j : Nat) :
    (s.foldl (· ^^^ ·) 0).getLsbD j = decide ((s.filter (·.getLsbD j)).length % 2 = 1) := by
  induction s with
  | nil => simp
  | cons b s ih =>
    rw [List.foldl_cons, foldl_xor, BitVec.getLsbD_xor, ih, List.filter_cons]
    cases hb : b.getLsbD j with
    | false => simp [hb]
    | true =>
      have hparity (m : Nat) : (!decide (m % 2 = 1)) = decide ((m + 1) % 2 = 1) := by
        rw [← decide_not, decide_eq_decide]
        omega
      simp [hb, hparity]

/-- A bit that is clear in every byte is clear in their fold. -/
theorem getLsbD_foldl_xor_of_forall {s : List Byte} {j : Nat} (h : ∀ b ∈ s, b.getLsbD j = false) :
    (s.foldl (· ^^^ ·) 0).getLsbD j = false := by
  have hnone : s.filter (·.getLsbD j) = [] := List.filter_eq_nil_iff.mpr fun b hb => by simp [h b hb]
  rw [getLsbD_foldl_xor, hnone]
  rfl

theorem exec_checksum_of_le {bytes : List Byte} {n : Nat} (h : n ≤ bytes.length) (s : State) :
    exec (.checksum bytes n) s = .next { s with result := .checksum (checksum bytes n) } :=
  if_pos h

theorem exec_checksum_of_lt {bytes : List Byte} {n : Nat} (h : bytes.length < n) (s : State) :
    exec (.checksum bytes n) s = .refused .checksumTooLong :=
  if_neg (Nat.not_le.mpr h)

/-- Settles O11: a fold of XOR is a parity in each bit. -/
theorem checksumIsBitParity : Obligations.ChecksumIsBitParity := fun bytes n s =>
  ⟨fun h => ⟨checksum bytes n, exec_checksum_of_le h s, fun j _ => getLsbD_foldl_xor (bytes.take n) j⟩,
    fun h => exec_checksum_of_lt h s⟩

/-- R116: the bytes after the first `n` are not read. -/
theorem checksum_append_left {s : List Byte} {n : Nat} (h : n ≤ s.length) (t : List Byte) :
    checksum (s ++ t) n = checksum s n := by
  rw [checksum, List.take_append_of_le_length h, checksum]

theorem checksum_concat (s : List Byte) (b : Byte) :
    checksum (s ++ [b]) (s ++ [b]).length = checksum s s.length ^^^ b := by
  simp only [checksum, List.take_length, List.foldl_concat]

/-- Settles O12: the last byte cancels the fold of the others. -/
theorem appendedChecksumFoldsToZero : Obligations.AppendedChecksumFoldsToZero := by
  intro bytes
  rw [checksum_concat, BitVec.xor_self]
  rfl

/-! ## BUILDFRAME -/

/-- The bytes of a ChannelFrame that carries the packed bytes `p` and the counter value `n` (R90, R117). -/
structure FrameLayout (p : Packed) (n : Counter) (F : List Byte) : Prop where
  length : F.length = 36
  header : F[0]? = some 129
  packed : ∀ b, 1 ≤ b → b ≤ 33 → F[b]? = some (packedByte p b)
  counter : F[34]? = some (n.setWidth 8)
  sum : F[35]? = some (checksum F 35)

/-- R117: what BUILDFRAME answers. -/
theorem buildFrame_layout (p : Packed) (n : Counter) : FrameLayout p (n + 1) (buildFrame p n).1 := by
  have hlen : p.toList.length = 33 := Vector.length_toList
  refine ⟨buildFrame_length p n, rfl, fun b hlo hhi => ?_, ?_, ?_⟩
  · obtain ⟨i, rfl⟩ := Nat.exists_eq_add_of_le' hlo
    have hi : i < 33 := by omega
    have hi' : i < p.toList.length := hlen ▸ hi
    simp [buildFrame, packedByte_eq p (i + 1) ⟨hlo, hhi⟩, List.getElem?_append_left hi', hi]
  · simp [buildFrame]
  · have hbody : (Param.header :: (p.toList ++ [(n + 1).setWidth 8])).length = 35 := by simp
    have hlast := List.getElem?_concat_length (l := Param.header :: (p.toList ++ [(n + 1).setWidth 8]))
      (a := checksum (Param.header :: (p.toList ++ [(n + 1).setWidth 8])) 35)
    rw [hbody] at hlast
    rw [buildFrame, checksum_append_left hbody.ge]
    exact hlast

/-- Settles O13: the layout of a built frame, with the counter in numerals. -/
theorem buildframeLayout : Obligations.BuildframeLayout := by
  intro p n s
  have hF := buildFrame_layout p n
  refine ⟨(buildFrame p n).1, n + 1, rfl, counter_toNat_succ n, hF.length, hF.header, hF.packed, ?_, hF.sum⟩
  rw [hF.counter, BitVec.ofNat_toNat]

/-- A layout fixes every byte of the frame. -/
theorem FrameLayout.eq {p : Packed} {n : Counter} {F G : List Byte} (hF : FrameLayout p n F) (hG : FrameLayout p n G) :
    F = G := by
  have hdata (i : Nat) (hi : i < 35) : F[i]? = G[i]? := by
    obtain rfl | ⟨hlo, hhi⟩ | rfl : i = 0 ∨ (1 ≤ i ∧ i ≤ 33) ∨ i = 34 := by omega
    · rw [hF.header, hG.header]
    · rw [hF.packed i hlo hhi, hG.packed i hlo hhi]
    · rw [hF.counter, hG.counter]
  have htake : F.take 35 = G.take 35 := by
    refine List.ext_getElem? fun i => ?_
    simp only [List.getElem?_take]
    split
    · exact hdata i ‹_›
    · rfl
  have hsum : F[35]? = G[35]? := by rw [hF.sum, hG.sum, checksum, htake, checksum]
  refine List.ext_getElem? fun i => ?_
  obtain hi | rfl | hi := Nat.lt_trichotomy i 35
  · exact hdata i hi
  · exact hsum
  · rw [List.getElem?_eq_none (by rw [hF.length]; omega), List.getElem?_eq_none (by rw [hG.length]; omega)]

/-- Bytes 1..33 of a frame. -/
def packedOf (F : List Byte) : Packed := Vector.ofFn fun i => F.getD (i + 1) 0

theorem packedByte_packedOf (F : List Byte) {b : Nat} (hb : 1 ≤ b ∧ b ≤ 33) : packedByte (packedOf F) b = F.getD b 0 := by
  rw [packedByte_eq _ _ hb, packedOf, Vector.getElem_ofFn]
  exact congrArg (F.getD · 0) (Nat.sub_add_cancel hb.1)

theorem getElem?_eq_some_getD {F : List Byte} {i : Nat} (h : i < F.length) : F[i]? = some (F.getD i 0) := by
  simp [h]

/-- The packed bytes and the counter are read off the frame. -/
theorem FrameLayout.packedOf_eq {p : Packed} {n : Counter} {F : List Byte} (hF : FrameLayout p n F) : packedOf F = p := by
  refine packed_ext fun off hlo hhi => ?_
  have hb : 1 ≤ byteOf off ∧ byteOf off ≤ 33 := by unfold byteOf; omega
  rw [packedBit, packedBit, packedByte_packedOf F hb, List.getD_eq_getElem?_getD, hF.packed _ hb.1 hb.2, Option.getD_some]

theorem FrameLayout.counter_toNat {p : Packed} {n : Counter} {F : List Byte} (hF : FrameLayout p n F) :
    (F.getD 34 0).toNat = n.toNat := by
  rw [List.getD_eq_getElem?_getD, hF.counter, Option.getD_some, counter_toNat_setWidth]

/-- A frame with the header, a counter byte below 128 and its checksum is laid out. -/
theorem exists_frameLayout {F : List Byte} (hlen : F.length = 36) (hheader : F[0]? = some 129)
    (hcounter : (F.getD 34 0).toNat < 128) (hsum : F[35]? = some (checksum F 35)) :
    ∃ n, FrameLayout (packedOf F) n F := by
  refine ⟨(F.getD 34 0).setWidth Param.ctrBits, hlen, hheader, fun b hlo hhi => ?_, ?_, hsum⟩
  · rw [packedByte_packedOf F ⟨hlo, hhi⟩, getElem?_eq_some_getD (by omega)]
  · rw [getElem?_eq_some_getD (by omega), Option.some.injEq]
    refine BitVec.eq_of_toNat_eq ?_
    rw [counter_toNat_setWidth, BitVec.toNat_setWidth]
    exact (Nat.mod_eq_of_lt hcounter).symm

/-! ## VERIFY -/

/-- The range `a..e`, counted from 0. -/
theorem forall_add_iff (P : Nat → Prop) {a n e : Nat} (he : a + n = e + 1) :
    (∀ t < n, P (t + a)) ↔ ∀ b, a ≤ b → b ≤ e → P b := by
  constructor
  · intro h b hlo hhi
    obtain ⟨t, rfl⟩ := Nat.exists_eq_add_of_le' hlo
    exact h t (by omega)
  · intro h t ht
    exact h (t + a) (by omega) (by omega)

section
variable {F : List Byte} (hlen : F.length = 36)
include hlen

theorem lenOk_verify : (verify F).lenOk = true := by rw [verify_of_length hlen]

theorem hdrOk_verify_iff : (verify F).hdrOk = true ↔ F[0]? = some 129 := by
  rw [verify_of_length hlen, getElem?_eq_some_getD (by omega)]
  simp

theorem sumOk_verify_iff : (verify F).sumOk = true ↔ F[35]? = some (checksum F 35) := by
  rw [verify_of_length hlen, getElem?_eq_some_getD (by omega)]
  simp

theorem layoutOk_verify_iff : (verify F).layoutOk = true ↔
    (F.getD 34 0).toNat < 128 ∧ (∀ b, 1 ≤ b → b ≤ 24 → F.getD b 0 &&& 0xE0 = 0) ∧
      ∀ b, 25 ≤ b → b ≤ 33 → F.getD b 0 = 0 := by
  rw [verify_of_length hlen]
  simp only [Bool.and_eq_true, decide_eq_true_eq, List.all_eq_true, List.mem_range, beq_iff_eq, and_assoc]
  exact and_congr_right' (and_congr (forall_add_iff (F.getD · 0 &&& 0xE0 = 0) (by rfl))
    (forall_add_iff (F.getD · 0 = 0) (by rfl)))

/-- A statement on the byte at an index of the frame, read without a default. -/
theorem forall_getElem?_iff {b : Nat} (hb : b < 36) (P : Byte → Prop) : (∀ x, F[b]? = some x → P x) ↔ P (F.getD b 0) := by
  rw [getElem?_eq_some_getD (by omega)]
  simp only [Option.some.injEq, forall_eq']

theorem forall_getElem?_range_iff {a e : Nat} (he : e < 36) (P : Byte → Prop) :
    (∀ b x, a ≤ b → b ≤ e → F[b]? = some x → P x) ↔ ∀ b, a ≤ b → b ≤ e → P (F.getD b 0) := by
  constructor
  · intro h b hlo hhi
    exact (forall_getElem?_iff hlen (by omega) P).mp fun x => h b x hlo hhi
  · intro h b x hlo hhi
    exact (forall_getElem?_iff hlen (by omega) P).mpr (h b hlo hhi) x

end

/-- Settles O14: VERIFY's four answers on 36 bytes, and its answer on any other length. -/
theorem verifyReportsFourChecks : Obligations.VerifyReportsFourChecks := by
  refine fun F s => ⟨verify F, rfl, verify_of_length_ne, fun hlen => ?_⟩
  refine ⟨lenOk_verify hlen, hdrOk_verify_iff hlen, sumOk_verify_iff hlen, ?_⟩
  rw [layoutOk_verify_iff hlen, forall_getElem?_iff hlen (by decide) (·.toNat ≤ 127), Nat.lt_succ_iff,
    forall_getElem?_range_iff hlen (by decide) (· &&& 0xE0 = 0), forall_getElem?_range_iff hlen (by decide) (· = 0)]

/-! ## Filler -/

/-- R92: every packed bit that carries no key of channel `c` is 0. -/
def ZeroFiller (c : Channel) (p : Packed) : Prop :=
  ∀ off, 8 ≤ off → off < 272 → unmap c off = none → packedBit p off = false

theorem pack_zeroFiller (keys : Keys) (c : Channel) : ZeroFiller c (pack keys c) :=
  fun _ hlo hhi => packedBit_pack_of_unmap_none keys ⟨hlo, hhi⟩

theorem and_fillerMask_eq_zero_iff (x : Byte) : x &&& 0xE0 = 0 ↔ ∀ j, j < 8 → 4 < j → x.getLsbD j = false := by
  have hmask : ∀ j < 8, (0xE0 : Byte).getLsbD j = decide (4 < j) := by decide
  constructor
  · intro h j hj hfill
    have hbit : (x &&& 0xE0).getLsbD j = false := by rw [h]; exact BitVec.getLsbD_zero
    rwa [BitVec.getLsbD_and, hmask j hj, decide_eq_true hfill, Bool.and_true] at hbit
  · intro h
    refine BitVec.eq_of_getLsbD_eq fun j hj => ?_
    rw [BitVec.getLsbD_and, hmask j hj]
    by_cases hfill : 4 < j
    · simp [h j hj hfill]
    · simp [hfill]

theorem byte_eq_zero_iff (x : Byte) : x = 0 ↔ ∀ j, j < 8 → x.getLsbD j = false := by
  refine ⟨fun h j _ => by rw [h]; exact BitVec.getLsbD_zero, fun h => BitVec.eq_of_getLsbD_eq fun j hj => ?_⟩
  exact (h j hj).trans BitVec.getLsbD_zero.symm

/-- R92 byte by byte, as VERIFY tests it (R119). -/
theorem zeroFiller_iff (c : Channel) (p : Packed) : ZeroFiller c p ↔
    (∀ b, 1 ≤ b → b ≤ 24 → packedByte p b &&& 0xE0 = 0) ∧ ∀ b, 25 ≤ b → b ≤ 33 → packedByte p b = 0 := by
  simp only [ZeroFiller, and_fillerMask_eq_zero_iff, unmap_eq_none_iff]
  simp only [byte_eq_zero_iff]
  constructor
  · intro h
    constructor
    · intro b hlo hhi j hj hfill
      rw [getLsbD_packedByte p b hj]
      exact h _ (by omega) (by omega) (by omega)
    · intro b hlo hhi j hj
      rw [getLsbD_packedByte p b hj]
      exact h _ (by omega) (by omega) (by omega)
  · rintro ⟨hdata, hrest⟩ off hlo hhi hnone
    by_cases hbyte : off / 8 ≤ 24
    · exact hdata (off / 8) (by omega) hbyte (off % 8) (by omega) (by omega)
    · exact hrest (off / 8) (by omega) (by omega) (off % 8) (by omega)

theorem layoutOk_verify_iff_zeroFiller (c : Channel) {F : List Byte} (hlen : F.length = 36) :
    (verify F).layoutOk = true ↔ (F.getD 34 0).toNat < 128 ∧ ZeroFiller c (packedOf F) := by
  rw [layoutOk_verify_iff hlen, zeroFiller_iff]
  refine and_congr_right' (and_congr ?_ ?_)
  all_goals
    refine forall_congr' fun b => forall_congr' fun hlo => forall_congr' fun hhi => ?_
    rw [packedByte_packedOf F (by omega)]

/-! ## Valid frames -/

theorem Verdict.frameOk_iff {v : Verdict} : v.frameOk = true ↔ v = .allTrue := by
  cases v
  simp [Verdict.frameOk, Verdict.allTrue, and_assoc]

theorem length_of_lenOk {F : List Byte} (h : (verify F).lenOk = true) : F.length = 36 := by
  by_contra hlen
  simp [verify_of_length_ne hlen] at h

/-- R119, R120: the valid frames are those laid out from packed bytes whose filler is 0. -/
theorem frameOk_verify_iff (c : Channel) (F : List Byte) :
    (verify F).frameOk = true ↔ ∃ p n, FrameLayout p n F ∧ ZeroFiller c p := by
  simp only [Verdict.frameOk, Bool.and_eq_true]
  constructor
  · rintro ⟨⟨⟨hlenOk, hhdr⟩, hsum⟩, hlayout⟩
    have hlen := length_of_lenOk hlenOk
    obtain ⟨hcounter, hfiller⟩ := (layoutOk_verify_iff_zeroFiller c hlen).mp hlayout
    obtain ⟨n, hF⟩ :=
      exists_frameLayout hlen ((hdrOk_verify_iff hlen).mp hhdr) hcounter ((sumOk_verify_iff hlen).mp hsum)
    exact ⟨packedOf F, n, hF, hfiller⟩
  · rintro ⟨p, n, hF, hfiller⟩
    have hlen := hF.length
    refine ⟨⟨⟨lenOk_verify hlen, (hdrOk_verify_iff hlen).mpr hF.header⟩, (sumOk_verify_iff hlen).mpr hF.sum⟩, ?_⟩
    refine (layoutOk_verify_iff_zeroFiller c hlen).mpr ⟨?_, hF.packedOf_eq ▸ hfiller⟩
    rw [hF.counter_toNat]
    exact counter_lt n

theorem sentFrame_layout (keys : Keys) (c : Channel) (n : Counter) :
    FrameLayout (pack keys c) (n + 1) (sentFrame keys c n) :=
  buildFrame_layout (pack keys c) n

theorem verify_sentFrame (keys : Keys) (c : Channel) (n : Counter) : verify (sentFrame keys c n) = .allTrue :=
  Verdict.frameOk_iff.mp ((frameOk_verify_iff c _).mpr ⟨_, _, sentFrame_layout keys c n, pack_zeroFiller keys c⟩)

/-- R93: after the header no byte before the checksum has bit 7 set. -/
theorem FrameLayout.getLsbD_seven {c : Channel} {p : Packed} {n : Counter} {F : List Byte} (hF : FrameLayout p n F)
    (hfiller : ZeroFiller c p) {b : Nat} {x : Byte} (hb : 1 ≤ b ∧ b ≤ 34) (hx : F[b]? = some x) :
    x.getLsbD 7 = false := by
  obtain hpacked | rfl : b ≤ 33 ∨ b = 34 := by omega
  · rw [hF.packed b hb.1 hpacked, Option.some.injEq] at hx
    rw [← hx, getLsbD_packedByte p b (by decide)]
    exact hfiller _ (by omega) (by omega) (unmap_eq_none_iff.mpr (by omega))
  · rw [hF.counter, Option.some.injEq] at hx
    rw [← hx, BitVec.getLsbD_setWidth, BitVec.getLsbD_of_ge n 7 (Nat.le_refl 7), Bool.and_false]

/-- R93: so the checksum byte has the header's bit 7. -/
theorem FrameLayout.getLsbD_checksum_seven {c : Channel} {p : Packed} {n : Counter} {F : List Byte}
    (hF : FrameLayout p n F) (hfiller : ZeroFiller c p) : (checksum F 35).getLsbD 7 = true := by
  obtain ⟨rest, rfl⟩ : ∃ rest, F = 129 :: rest := ⟨F.tail, List.eq_cons_of_mem_head? (List.head?_eq_getElem? ▸ hF.header)⟩
  have hrest : ∀ x ∈ rest.take 34, x.getLsbD 7 = false := by
    intro x hx
    obtain ⟨i, hi, hx⟩ := List.mem_take_iff_getElem.mp hx
    exact hF.getLsbD_seven hfiller (b := i + 1) (by omega) (by rw [List.getElem?_cons_succ, ← hx]; simp)
  rw [checksum, List.take_succ_cons, List.foldl_cons, foldl_xor, BitVec.getLsbD_xor,
    getLsbD_foldl_xor_of_forall hrest]
  rfl

/-- Settles O15: a built frame is laid out with zero filler. -/
theorem builtFramesVerify : Obligations.BuiltFramesVerify := by
  refine fun keys c n s => ⟨?verdict, fun x hx => ?checksum⟩
  case verdict =>
    rw [← verify_sentFrame keys c n]
    rfl
  case checksum =>
    have hF := sentFrame_layout keys c n
    rw [hF.sum, Option.some.injEq] at hx
    have hmsb : x.msb = true := hx ▸ hF.getLsbD_checksum_seven (pack_zeroFiller keys c)
    exact BitVec.le_toNat_of_msb_true hmsb

/-! ## The keys of a valid frame -/

/-- The bitmap whose keys are read off packed bytes at the places REMAP gives; the other channel's keys are read there
too, and do not matter. -/
def unpack (p : Packed) : Keys := BitVec.ofFnLE fun k => packedBit p (remap k).2

theorem readKey_unpack (p : Packed) {c : Channel} {off k : Nat} (h : unmap c off = some k) :
    readKey (unpack p) k = packedBit p off := by
  obtain ⟨hk, haddr⟩ := unmap_eq_some_iff.mp h
  rw [readKey, unpack, BitVec.getLsbD_ofFnLE, dif_pos hk]
  simp only [haddr]

/-- R115 undone: packed bytes with zero filler are PACK of the keys read off them. -/
theorem pack_unpack {c : Channel} {p : Packed} (hfiller : ZeroFiller c p) : pack (unpack p) c = p := by
  refine packed_ext fun off hlo hhi => ?_
  cases hunmap : unmap c off with
  | none => rw [packedBit_pack_of_unmap_none _ ⟨hlo, hhi⟩ hunmap, hfiller off hlo hhi hunmap]
  | some k => rw [packedBit_pack_of_unmap_some _ hunmap, readKey_unpack p hunmap]

/-- PACK keeps every key of its channel. -/
theorem readKey_eq_of_pack_eq {keys keys' : Keys} {c : Channel} (h : pack keys c = pack keys' c) {k : Nat} (hk : k < 240)
    (hc : (remap k).1 = c) : readKey keys k = readKey keys' k := by
  have hunmap : unmap c (remap k).2 = some k := hc ▸ unmap_remap hk
  rw [← packedBit_pack_of_unmap_some keys hunmap, h, packedBit_pack_of_unmap_some keys' hunmap]

/-- The frame sent with a counter carries its successor, so the counter sent with is one less, modulo 128. -/
theorem sentFrame_counter (keys : Keys) (c : Channel) (n : Counter) :
    n.toNat = (((sentFrame keys c n).getD 34 0).toNat + 127) % 128 := by
  have hn := counter_lt n
  rw [(sentFrame_layout keys c n).counter_toNat, counter_toNat_succ]
  omega

/-- R120: two ways to build one frame agree in the counter and in the keys of the channel. -/
theorem sentFrame_inj {keys keys' : Keys} {c : Channel} {n n' : Counter} (h : sentFrame keys c n = sentFrame keys' c n') :
    n = n' ∧ pack keys c = pack keys' c := by
  constructor
  · exact BitVec.eq_of_toNat_eq (by rw [sentFrame_counter keys c n, h, ← sentFrame_counter keys' c n'])
  · rw [← (sentFrame_layout keys c n).packedOf_eq, h, (sentFrame_layout keys' c n').packedOf_eq]

/-- Settles O16: a valid frame is laid out with zero filler; its keys are read off, and it is sent with one counter less. -/
theorem validFrameHasOneBuild : Obligations.ValidFrameHasOneBuild := by
  intro c bytes hok
  obtain ⟨p, m, hF, hfiller⟩ := (frameOk_verify_iff c bytes).mp hok
  have hbuilt : sentFrame (unpack p) c (m - 1) = bytes := by
    refine FrameLayout.eq (p := p) (n := m) ?_ hF
    have hsent := sentFrame_layout (unpack p) c (m - 1)
    rwa [pack_unpack hfiller, BitVec.sub_add_cancel] at hsent
  refine ⟨unpack p, m - 1, hbuilt, hbuilt ▸ sentFrame_counter (unpack p) c (m - 1), fun off k hunmap => ?_, ?_⟩
  · have hoff := mem_of_unmap_eq_some hunmap
    rw [readKey_unpack p hunmap, ← hF.packedOf_eq, packedBit, packedByte_packedOf bytes (by unfold byteOf; omega)]
  · intro keys' n' hbuilt'
    obtain ⟨hn, hpack⟩ := sentFrame_inj (hbuilt'.trans hbuilt.symm)
    exact ⟨hn, fun k => readKey_eq_of_pack_eq hpack⟩

end Sys2Proof.Machine
end

section
/-!
PROOFS. Wakes in a row (44_send_scheduler.md R190, R192; 40_codec.md R118): each sends one more frame on a Scanning channel,
from the same bitmap and the next counter value.
-/

namespace Sys2Proof.Machine

/-- A whole wake in one record: the change signal and the two channels. -/
theorem runWholeWake_eq (s : State) :
    runWholeWake s = { s with change := false, chR := sentOn s .R s.chR, chL := sentOn s .L s.chL } := by
  rw [runWholeWake, runSend_eq, runSend_eq]
  rfl

theorem ch_runWholeWake (s : State) (c : Channel) : (runWholeWake s).ch c = sentOn s c (s.ch c) := by
  rw [runWholeWake_eq]
  cases c <;> rfl

theorem ch_withAgenda (s : State) (es : List Event) (c : Channel) : (s.withAgenda es).ch c = s.ch c := by
  cases c <;> rfl

/-- A settled wake is a whole one, once the transmit path is started. -/
theorem step_wake {s : State} (hstart : s.schedStarted = true) (hatomic : s.cfg.wakeAtomic = true) (es : List Event) :
    step (s.withAgenda (.wake :: es)) = .next ((runWholeWake s).withAgenda es) := by
  have hwake : runWake (s.withAgenda es) = runWholeWake (s.withAgenda es) := by
    simp [runWake, State.withAgenda, hstart, hatomic]
  rw [step_withAgenda_of_agent (i := .wake) rfl]
  refine congrArg Host.Outcome.next (hwake.trans ?_)
  rw [runWholeWake_eq, runWholeWake_eq]
  rfl

/-- A run over settled wakes is as many whole wakes. -/
theorem run_wakes {s : State} (hstart : s.schedStarted = true) (hatomic : s.cfg.wakeAtomic = true) (es : List Event)
    (n : Nat) : core.run n (s.withAgenda (List.replicate n .wake ++ es)) = .next ((runWholeWake^[n] s).withAgenda es) := by
  induction n generalizing s with
  | zero => exact run_zero _
  | succ n ih =>
    rw [List.replicate_succ, List.cons_append, run_succ n (step_wake hstart hatomic _), Function.iterate_succ_apply]
    exact ih (by rw [runWholeWake_eq]; exact hstart) (by rw [runWholeWake_eq]; exact hatomic)

theorem keys_iterate_runWholeWake (s : State) (n : Nat) : (runWholeWake^[n] s).keys = s.keys := by
  induction n with
  | zero => rfl
  | succ n ih => rw [Function.iterate_succ_apply', runWholeWake_eq, ← ih]

/-- The frames that `n` wakes in a row send on channel `c` from one bitmap, the first with the counter `ctr`. -/
def sentFrames (keys : Keys) (c : Channel) (ctr : Counter) (n : Nat) : List Byte :=
  ((List.range n).map fun m => sentFrame keys c (ctr + BitVec.ofNat _ m)).flatten

theorem sentFrames_succ (keys : Keys) (c : Channel) (ctr : Counter) (n : Nat) :
    sentFrames keys c ctr (n + 1) = sentFrames keys c ctr n ++ sentFrame keys c (ctr + BitVec.ofNat _ n) := by
  simp [sentFrames, List.range_succ]

/-- R118, R192: what `n` wakes do to a Scanning channel. -/
theorem ch_iterate_runWholeWake {s : State} {c : Channel} (hinit : (s.ch c).init = true) (n : Nat) :
    (runWholeWake^[n] s).ch c =
      { s.ch c with
        ctr := (s.ch c).ctr + BitVec.ofNat _ n
        tx := (s.ch c).tx ++ sentFrames s.keys c (s.ch c).ctr n } := by
  induction n with
  | zero =>
    have hctr : (s.ch c).ctr + BitVec.ofNat _ 0 = (s.ch c).ctr := BitVec.add_zero _
    have htx : sentFrames s.keys c (s.ch c).ctr 0 = [] := rfl
    rw [hctr, htx, List.append_nil]
    rfl
  | succ n ih =>
    rw [Function.iterate_succ_apply', ch_runWholeWake, ih, sentOn, if_pos hinit, keys_iterate_runWholeWake,
      sentFrames_succ, BitVec.ofNat_add, BitVec.add_assoc, List.append_assoc]
    rfl

/-- Settles O37: by induction on the number of wakes; a frame carries the successor of the counter it is sent with. -/
theorem counterLaw : Obligations.CounterLaw := by
  intro c s es n hstart hatomic hinit
  have hch := (ch_withAgenda _ es c).trans (ch_iterate_runWholeWake hinit n)
  refine ⟨⟨_, run_wakes hstart hatomic es n, rfl, ?ctr, ?tx⟩, fun m hlo _ => ?frame⟩
  case ctr => exact congrArg ChannelState.ctr hch
  case tx => exact congrArg ChannelState.tx hch
  case frame =>
    refine ⟨_, ?_, (sentFrame_layout s.keys c _).counter⟩
    rw [counter_toNat_setWidth, counter_toNat_succ, counter_toNat_add, BitVec.toNat_ofNat]
    have hmod : 2 ^ Param.ctrBits = 128 := rfl
    rw [hmod]
    omega

end Sys2Proof.Machine
end

section
/-!
PROOFS. ChannelProtocol (42_channel_protocol.md): what each of the nine command rows answers (R151 to R159), which of them
DISPATCH runs (R150) and what that does to the mode of the channel (R160), and what all of them leave alone (R162).
-/

namespace Sys2Proof.Machine

/-! ## Commands with a fixed response -/

/-- The answer of each row that clears `init[c]` and sends a response. -/
theorem next_answer (c : Channel) (v : Bool) (response : List Byte) (s : State) :
    (.next (answer c v response s) : Host.Outcome State Fault Refusal) =
      .next (s.modifyCh c fun ch => { ch with init := v, tx := ch.tx ++ response }) :=
  congrArg _ (answer_eq c v response s)

/-- Settles O18: the response is `rspSyncver`, of 1 + 6 + 1 bytes. -/
theorem syncverAnswers : Obligations.SyncverAnswers := by
  intro rom
  refine ⟨rspSyncver rom, rfl, by simp [rspSyncver], ?_⟩
  rintro c s rfl
  exact next_answer c false _ s

/-- Settles O20: the payloads are the ROM's, and R7 makes them differ. -/
theorem mysteryCommandsAnswer : Obligations.MysteryCommandsAnswer := by
  intro c s
  obtain ⟨-, -, -, hpay⟩ := (RomData.wf_iff _).mp s.cfg.rom.wf
  exact ⟨next_answer c false _ s, next_answer c false _ s, Vector.length_toList, Vector.length_toList, hpay⟩

/-- Settles O21: START's acknowledgment goes out as an answer that sets `init[c]`. -/
theorem startEntersScanning : Obligations.StartEntersScanning := by
  intro c s
  refine ⟨?_, Vector.length_toList⟩
  rw [← answer_eq]
  rfl

/-! ## UNITVER -/

theorem repeatBytes_eq (s : List Byte) (n : Nat) : repeatBytes s n = (List.replicate n s).flatten := by
  induction n with
  | zero => rfl
  | succ n ih => rw [repeatBytes, ih, List.replicate_succ, List.flatten_cons]

theorem length_rspUnitver (rom : Rom) (c : Channel) : (rspUnitver rom c).length = 45 := by
  simp [rspUnitver, repeatBytes_eq]

/-- R87: the side byte of the response stands at offset 7. -/
theorem rspUnitver_side (rom : Rom) (c : Channel) : (rspUnitver rom c)[7]? = some (sideByte rom c) := by
  simp [rspUnitver]

/-- R87: one channel's response becomes the other's when the bytes at offsets 7 and 44 are replaced. -/
theorem rspUnitver_eq_set (rom : Rom) (c c' : Channel) :
    rspUnitver rom c' = ((rspUnitver rom c).set 7 (sideByte rom c')).set 44 (unitSum rom c') := by
  simp [rspUnitver, repeatBytes_eq]

/-- Settles O19: the channels' responses are one string but for the two bytes that depend on the channel, and R7 makes the
side bytes differ. -/
theorem unitverAnswers : Obligations.UnitverAnswers := by
  intro rom
  obtain ⟨-, -, hside, -⟩ := (RomData.wf_iff _).mp rom.wf
  refine ⟨rspUnitver rom, fun c => ?layout, length_rspUnitver rom, ?side, fun j h7 h44 => ?rest, ?effect⟩
  case layout => cases c <;> rw [← repeatBytes_eq] <;> rfl
  case side => simpa [rspUnitver_side, sideByte] using hside
  case rest => rw [rspUnitver_eq_set rom .R .L, List.getElem?_set_ne h44.symm, List.getElem?_set_ne h7.symm]
  case effect =>
    rintro c s rfl
    exact next_answer c false _ s

/-! ## Commands without a response -/

/-- Settles O22: ERRSTAT is the condition E_ERRSTAT. -/
theorem errstatClearsAndWarns : Obligations.ErrstatClearsAndWarns := fun c s =>
  congrArg _ (takeCondition_errstat s c)

/-- Settles O24: the wait is one of the two flags that the command byte sets. -/
theorem nextreadWaitsForSelector : Obligations.NextreadWaitsForSelector := fun c s =>
  congrArg _ (runNextread_eq c s)

/-- Settles O23: the byte decodes to OTHER, so the poll dispatches it alone, and OTHER does nothing. -/
theorem otherByteIsDiscarded : Obligations.OtherByteIsDiscarded := by
  refine fun c b s => ⟨rfl, fun q hq hwait hno hdrain => ?_⟩
  have hdec : decodeByte s.cfg.rom (s.ch c).selPending b = .other b := by
    rw [hwait]
    exact (decodeOpcode_eq_other_iff s.cfg.rom b).mpr hno
  have hpoll : runPoll c s = s.setRxq c q := by
    rw [runPoll_of_cons hdrain hq, hdec, if_neg (by simp), runDispatch_setRxq, hdec]
    rfl
  exact congrArg _ hpoll

/-! ## The selector of next-read -/

theorem runNextreadSel_of_table {s : State} {sel : Byte} {table : List Byte}
    (h : selectTable s.cfg.rom sel = some table) (c : Channel) :
    runNextreadSel c sel s =
      s.modifyCh c fun ch => { ch with selPending := false, tx := ch.tx ++ rspNextread table } := by
  simp only [runNextreadSel, h, setSelPending_eq, txWrite_eq, modifyCh_modifyCh]

theorem runNextreadSel_of_no_table {s : State} {sel : Byte} (h : selectTable s.cfg.rom sel = none) (c : Channel) :
    runNextreadSel c sel s = s.modifyCh c fun ch => { ch with selPending := false } := by
  simp only [runNextreadSel, h, takeCondition_unknownSel]

/-- Settles O25: the selectors are distinct, so `SEL[k]` chooses `CAL[k]`; the appended checksum makes the fold 0 (R116). -/
theorem selectorChoosesTable : Obligations.SelectorChoosesTable := by
  refine fun c sel s => ⟨?_, fun hno => ?_⟩
  · rintro k rfl
    exact ⟨rspNextread s.cfg.rom.cal[k], rfl, appendedChecksumFoldsToZero _,
      congrArg _ (runNextreadSel_of_table (selectTable_of_sel s.cfg.rom k) c)⟩
  · exact congrArg _ (runNextreadSel_of_no_table (selectTable_of_not_mem hno) c)

/-! ## DISPATCH -/

/-- DISPATCH is the meaning of the row that the byte decodes to. -/
theorem exec_dispatch (c : Channel) (b : Byte) (s : State) :
    exec (.dispatch c b) s = exec ((decodeByte s.cfg.rom (s.ch c).selPending b).instr c) s :=
  (exec_command c _ s).symm

/-- R82: a byte decodes to a row with a code of its own just when it is that code. -/
theorem decodeOpcode_eq_row_iff (rom : Rom) (b : Byte) {row : Command} (h : row ∈ opcodeRows) :
    decodeOpcode rom b = row ↔ b = row.byte rom := by
  refine ⟨?_, fun hb => hb ▸ decodeOpcode_of_row rom h⟩
  rintro rfl
  obtain ⟨-, hbyte⟩ | ⟨hother, -⟩ := decodeOpcode_cases rom b
  · exact hbyte.symm
  · simp [hother, opcodeRows] at h

/-- Settles O26: the codes are distinct (R7), so the first test of the spec's chain that succeeds finds the row the decoder
finds in its own order. -/
theorem dispatchFollowsTheTable : Obligations.DispatchFollowsTheTable := by
  intro c b s
  refine ⟨runDispatch c b s, rfl, ?_⟩
  change _ = exec (.dispatch c b) s
  rw [exec_dispatch]
  congr 1
  cases (s.ch c).selPending with
  | true => rfl
  | false =>
    have hrow {row : Command} (h : row ∈ opcodeRows) (hb : b = row.byte s.cfg.rom) :
        row.instr c = (decodeOpcode s.cfg.rom b).instr c := by
      rw [(decodeOpcode_eq_row_iff s.cfg.rom b h).mpr hb]
    change _ = (decodeOpcode s.cfg.rom b).instr c
    rw [if_neg Bool.false_ne_true]
    split_ifs with hsyncver hnextread hunitver hmyst1 hmyst2 hstart herrstat
    · exact hrow (row := .syncver) (by decide) hsyncver
    · exact hrow (row := .nextread) (by decide) hnextread
    · exact hrow (row := .unitver) (by decide) hunitver
    · exact hrow (row := .myst1) (by decide) hmyst1
    · exact hrow (row := .myst2) (by decide) hmyst2
    · exact hrow (row := .start) (by decide) hstart
    · exact hrow (row := .errstat) (by decide) herrstat
    · change b ≠ Param.cmdErrstat at herrstat
      have hno : b ∉ s.cfg.rom.codes := by simp [RomData.codes, *]
      rw [(decodeOpcode_eq_other_iff s.cfg.rom b).mpr hno]
      rfl

/-! ## What a channel's operations leave alone -/

theorem runCommand_writes (c : Channel) (cmd : Command) (s : State) : PollerWrites c s (runCommand c cmd s) := by
  obtain ⟨init, selPending, started, out, records, heffect⟩ :=
    runCommand_effect c cmd s.cfg.rom (s.ch c).init (s.ch c).selPending
  exact ⟨init, selPending, started, (s.ch c).rxq, out, records, by rw [heffect s rfl rfl rfl]; cases c <;> rfl⟩

/-- R162: a command row, DISPATCH and POLL of a channel write no more than its Poller may. -/
theorem exec_writes {c : Channel} {i : Instr} (s : State)
    (h : (∃ cmd : Command, i = cmd.instr c) ∨ (∃ b, i = .dispatch c b) ∨ i = .poll c) :
    ∃ t, exec i s = .next t ∧ PollerWrites c s t := by
  obtain ⟨cmd, rfl⟩ | ⟨b, rfl⟩ | rfl := h
  · exact ⟨_, exec_command c cmd s, runCommand_writes c cmd s⟩
  · exact ⟨_, rfl, runDispatch_writes c b s⟩
  · exact ⟨_, rfl, runPoll_writes c s⟩

/-- Settles O27: what a Poller writes is none of the fields listed. -/
theorem commandsLeaveTheRestAlone : Obligations.CommandsLeaveTheRestAlone := by
  intro c i s h
  obtain ⟨t, hexec, init, selPending, started, rxq, out, records, rfl⟩ := exec_writes s h
  exact ⟨_, hexec, by simp⟩

/-! ## The modes of the dispatcher -/

theorem ChannelState.mode_eq_waiting_iff {ch : ChannelState} :
    ch.mode = .waiting ↔ ch.init = false ∧ ch.selPending = true := by
  unfold ChannelState.mode
  split <;> simp [*]

/-- R35 (c): outside the unreachable pair, a channel that is not in W awaits no selector. -/
theorem ChannelState.selPending_of_mode {ch : ChannelState} (hreach : ch.mode ≠ .unreachable)
    (hwait : ch.mode ≠ .waiting) : ch.selPending = false := by
  unfold ChannelState.mode at hreach hwait
  split at hreach <;> simp_all

/-- R160, from W: a selector, recognised or not, ends the wait. -/
theorem mode_runNextreadSel {s : State} {c : Channel} (h : (s.ch c).mode = .waiting) (sel : Byte) :
    ((runNextreadSel c sel s).ch c).mode = .uninitialized := by
  obtain ⟨hinit, -⟩ := ChannelState.mode_eq_waiting_iff.mp h
  cases htable : selectTable s.cfg.rom sel with
  | none => simp [runNextreadSel_of_no_table htable, ChannelState.mode, hinit]
  | some table => simp [runNextreadSel_of_table htable, ChannelState.mode, hinit]

/-- An answered command that clears `init[c]` leads to U. -/
theorem mode_answer_false {s : State} {c : Channel} (hwait : (s.ch c).selPending = false) (response : List Byte) :
    ((answer c false response s).ch c).mode = .uninitialized := by
  simp [answer_eq, ChannelState.mode, hwait]

/-- R160, from U and S: START leads to S, next-read to W, every other row with a code to U. -/
theorem mode_runCommand_of_row {s : State} {c : Channel} (hwait : (s.ch c).selPending = false) {row : Command}
    (hrow : row ∈ opcodeRows) :
    ((runCommand c row s).ch c).mode =
      if row = .start then .scanning else if row = .nextread then .waiting else .uninitialized := by
  cases row with
  | nextreadSel sel | other b => simp [opcodeRows] at hrow
  | nextread => simp [runCommand, runNextread_eq, ChannelState.mode]
  | errstat => simp [runCommand, runErrstat, takeCondition_errstat, ChannelState.mode, hwait]
  | start => simp [runCommand, runStart, answer_eq, ChannelState.mode, hwait]
  | syncver | unitver | myst1 | myst2 => exact mode_answer_false hwait _

/-- Settles O28: a byte in W is a selector; in U or S it is the code of one row, or of none and then has no effect. -/
theorem dispatcherModeTable : Obligations.DispatcherModeTable := by
  intro c b s hreach
  refine ⟨runDispatch c b s, rfl, ?_⟩
  by_cases hmode : (s.ch c).mode = .waiting
  · obtain ⟨-, hwait⟩ := ChannelState.mode_eq_waiting_iff.mp hmode
    rw [if_pos hmode, runDispatch, hwait]
    exact mode_runNextreadSel hmode b
  · have hwait := ChannelState.selPending_of_mode hreach hmode
    have hstart : b = s.cfg.rom.cmdStart ↔ decodeOpcode s.cfg.rom b = .start :=
      (decodeOpcode_eq_row_iff s.cfg.rom b (row := .start) (by decide)).symm
    have hnextread : b = s.cfg.rom.cmdNextread ↔ decodeOpcode s.cfg.rom b = .nextread :=
      (decodeOpcode_eq_row_iff s.cfg.rom b (row := .nextread) (by decide)).symm
    simp only [if_neg hmode, runDispatch, hwait, decodeByte, Bool.false_eq_true, if_false, hstart, hnextread]
    obtain ⟨hrow, hbyte⟩ | ⟨hother, hno⟩ := decodeOpcode_cases s.cfg.rom b
    · have hcode : b ∈ s.cfg.rom.codes := hbyte ▸ byte_mem_codes s.cfg.rom hrow
      rw [mode_runCommand_of_row hwait hrow, if_pos hcode]
    · rw [hother, if_neg hno]
      rfl

end Sys2Proof.Machine
end

section
/-!
PROOFS. The Poller (43_poller.md): what one POLL takes and runs (R180, R182), what `RX_DRAIN` changes in it (R184), and
what it reads and writes (R183).
-/

namespace Sys2Proof.Machine

/-! ## One POLL, case by case -/

/-- R184: a channel whose queue is emptied where the switch says so. -/
def drainIf (drained : Bool) (c : Channel) (s : State) : State := if drained then s.setRxq c [] else s

/-- R184: once no selector is awaited, `drain` looks at the switch alone. -/
theorem drain_of_completed {c : Channel} {s t : State} (hwrites : PollerWrites c s t)
    (hdone : (t.ch c).selPending = false) : drain c t = drainIf s.cfg.rxDrain c t := by
  simp [drain, drainIf, hdone, hwrites.cfg_eq]

theorem drain_of_selPending {c : Channel} {s : State} (hwait : (s.ch c).selPending = true) : drain c s = s := by
  simp [drain, hwait]

theorem selPending_runNextreadSel (c : Channel) (sel : Byte) (s : State) :
    ((runNextreadSel c sel s).ch c).selPending = false := by
  cases htable : selectTable s.cfg.rom sel with
  | none => simp [runNextreadSel_of_no_table htable]
  | some table => simp [runNextreadSel_of_table htable]

theorem runPoll_of_empty {s : State} {c : Channel} (h : (s.ch c).rxq = []) : runPoll c s = s := by
  simp [runPoll, rxPop_of_empty h]

section
variable {s : State} {c : Channel} {b : Byte} {q : List Byte} (hq : (s.ch c).rxq = b :: q)
include hq

/-- R180: an awaited selector, and any byte but next-read's, is a whole command. -/
theorem runPoll_of_whole_command (hwhole : ¬((s.ch c).selPending = false ∧ b = s.cfg.rom.cmdNextread)) :
    runPoll c s = drainIf s.cfg.rxDrain c (runDispatch c b (s.setRxq c q)) := by
  have hdone : ((runDispatch c b (s.setRxq c q)).ch c).selPending = false := by
    simpa [selPending_runDispatch, setRxq_eq] using hwhole
  rw [← drain_of_completed ((setRxq_writes c q s).trans (runDispatch_writes c b _)) hdone]
  simp [runPoll, rxPop_of_cons hq, hdone]

variable (hwait : (s.ch c).selPending = false) (hb : b = s.cfg.rom.cmdNextread)
include hwait hb

/-- R180: the command byte of next-read goes on to its selector. -/
theorem runPoll_of_nextread : runPoll c s = drain c (takeSelector c (runNextread c (s.setRxq c q))) := by
  have hrun : runDispatch c b (s.setRxq c q) = runNextread c (s.setRxq c q) := by
    rw [runDispatch_setRxq, (decodeByte_eq_nextread_iff _ _ _).mpr ⟨hwait, hb⟩]
    rfl
  simp [runPoll, rxPop_of_cons hq, hwait, hrun, runNextread_eq]

theorem runPoll_of_nextread_alone (hempty : q = []) : runPoll c s = runNextread c (s.setRxq c []) := by
  subst hempty
  rw [runPoll_of_nextread hq hwait hb, takeSelector_of_empty (by simp [runNextread_eq, setRxq_eq]),
    drain_of_selPending (by simp [runNextread_eq])]

theorem runPoll_of_nextread_selector {sel : Byte} {q' : List Byte} (hsel : q = sel :: q') :
    runPoll c s = drainIf s.cfg.rxDrain c (runNextreadSel c sel (runNextread c (s.setRxq c q'))) := by
  have hwrites := ((setRxq_writes c q' s).trans (runCommand_writes c .nextread _)).trans
    (runCommand_writes c (.nextreadSel sel) _)
  rw [runPoll_of_nextread hq hwait hb,
    takeSelector_of_cons (q := q') (by simp [runNextread_eq]) (by simpa [runNextread_eq, setRxq_eq] using hsel),
    setRxq_runNextread]
  exact drain_of_completed hwrites (selPending_runNextreadSel c sel _)

end

/-- Settles O29: a next-read command byte sets the two flags, and a selector behind it runs as NEXTREAD_SEL. -/
theorem pollTakesOneCommand : Obligations.PollTakesOneCommand := by
  refine fun c s => ⟨fun hempty => congrArg _ (runPoll_of_empty hempty), fun b q hq => ⟨fun hwhole => ?whole,
    fun hwait hb hempty => ?alone, fun sel q' hwait hb hsel => ?selector⟩⟩
  case whole =>
    refine ⟨_, rfl, congrArg _ (runPoll_of_whole_command hq ?_)⟩
    rintro ⟨hwait, hb⟩
    exact hwhole.elim (by simp [hwait]) (absurd hb)
  case alone =>
    refine congrArg _ ((runPoll_of_nextread_alone hq hwait hb hempty).trans ?_)
    rw [runNextread_eq, setRxq_eq, modifyCh_modifyCh]
  case selector =>
    refine ⟨_, rfl, congrArg _ ((runPoll_of_nextread_selector hq hwait hb hsel).trans ?_)⟩
    rw [runNextread_eq, setRxq_eq, modifyCh_modifyCh]
    rfl

/-! ## The bytes that a POLL consumes -/

/-- R182: a command reads nothing from the queue; the Poller does. -/
theorem rxq_runCommand (c : Channel) (cmd : Command) (s : State) :
    ((runCommand c cmd s).ch c).rxq = (s.ch c).rxq := by
  obtain ⟨_, _, _, _, _, heffect⟩ := runCommand_effect c cmd s.cfg.rom (s.ch c).init (s.ch c).selPending
  simp [heffect s rfl rfl rfl]

/-- Settles O30: the commands leave the queue as the Poller's one or two reads left it. -/
theorem pollConsumesOneOrTwoBytes : Obligations.PollConsumesOneOrTwoBytes := by
  intro c s hdrain hne
  refine ⟨runPoll c s, rfl, ?_⟩
  obtain ⟨b, q, hq⟩ := List.exists_cons_of_ne_nil hne
  rw [hq]
  by_cases hnext : (s.ch c).selPending = false ∧ b = s.cfg.rom.cmdNextread
  case neg =>
    left
    simp [runPoll_of_whole_command hq hnext, drainIf, hdrain, runDispatch, rxq_runCommand, setRxq_eq]
  case pos =>
    obtain ⟨hwait, hb⟩ := hnext
    cases q with
    | nil =>
      left
      simp [runPoll_of_nextread_alone hq hwait hb rfl, runNextread_eq, setRxq_eq]
    | cons sel q' =>
      have hrxq := rxq_runCommand c (.nextreadSel sel) (runNextread c (s.setRxq c q'))
      refine .inr ⟨hwait, by simp [hb], ?_⟩
      rw [runPoll_of_nextread_selector hq hwait hb rfl, drainIf, hdrain]
      exact hrxq.trans (by simp [runNextread_eq, setRxq_eq])

/-! ## What a POLL depends on -/

/-- What one POLL does: the flags it leaves, the queue it leaves where `RX_DRAIN` does not empty it, the response, the
records and whether the transmit path starts. -/
structure PollEffect where
  init : Bool
  selPending : Bool
  started : Bool
  rest : List Byte
  out : List Byte
  records : List LogRecord

/-- The state after a POLL of channel `c` with a given effect. -/
def PollEffect.apply (e : PollEffect) (c : Channel) (s : State) : State :=
  { (s.modifyCh c fun ch =>
      { ch with
        init := e.init, selPending := e.selPending, rxq := if s.cfg.rxDrain then [] else e.rest
        tx := ch.tx ++ e.out }) with
    schedStarted := s.schedStarted || e.started
    log := s.log ++ e.records }

theorem modifyCh_of_fixed {s : State} {c : Channel} {f : ChannelState → ChannelState} (h : f (s.ch c) = s.ch c) :
    s.modifyCh c f = s := by
  cases c <;> simp_all [State.modifyCh]

/-- The effect of a POLL whose command runs with the flags `i` and `p` and leaves the queue `q`. -/
theorem drainIf_runCommand_effect (c : Channel) (cmd : Command) (rom : Rom) (i p : Bool) (q : List Byte) :
    ∃ e : PollEffect, ∀ s t : State, s.cfg.rom = rom →
      t = (s.modifyCh c fun ch => { ch with init := i, selPending := p, rxq := q }) →
        drainIf s.cfg.rxDrain c (runCommand c cmd t) = e.apply c s := by
  obtain ⟨init, selPending, started, out, records, heffect⟩ := runCommand_effect c cmd rom i p
  refine ⟨⟨init, selPending, started, q, out, records⟩, ?_⟩
  rintro s t hrom rfl
  rw [heffect _ (by simpa using hrom) (by simp) (by simp), drainIf, PollEffect.apply]
  cases c <;> cases s.cfg.rxDrain <;> simp [setRxq_eq, State.modifyCh]

/-- R183: what a POLL does depends on the ROM and on its own channel's queue and two flags; `RX_DRAIN` decides what is
left of the queue, and nothing else. -/
theorem runPoll_effect (c : Channel) (rom : Rom) (rxq : List Byte) (i p : Bool) :
    ∃ e : PollEffect, ∀ s : State, s.cfg.rom = rom → (s.ch c).rxq = rxq → (s.ch c).init = i →
      (s.ch c).selPending = p → runPoll c s = e.apply c s := by
  cases rxq with
  | nil =>
    refine ⟨⟨i, p, false, [], [], []⟩, ?_⟩
    rintro s - hq rfl rfl
    rw [runPoll_of_empty hq, PollEffect.apply, modifyCh_of_fixed (by rw [ite_self, List.append_nil, ← hq])]
    simp
  | cons b q =>
    by_cases hnext : p = false ∧ b = rom.cmdNextread
    case neg =>
      obtain ⟨e, he⟩ := drainIf_runCommand_effect c (decodeByte rom p b) rom i p q
      refine ⟨e, ?_⟩
      rintro s rfl hq rfl rfl
      rw [runPoll_of_whole_command hq hnext, runDispatch_setRxq]
      exact he s _ rfl (by cases c <;> rfl)
    case pos =>
      obtain ⟨rfl, hb⟩ := hnext
      cases q with
      | nil =>
        refine ⟨⟨false, true, false, [], [], []⟩, ?_⟩
        rintro s rfl hq - hwait
        rw [runPoll_of_nextread_alone hq hwait hb rfl]
        cases c <;> simp [PollEffect.apply, runNextread_eq, setRxq_eq, State.modifyCh]
      | cons sel q' =>
        obtain ⟨e, he⟩ := drainIf_runCommand_effect c (.nextreadSel sel) rom false true q'
        refine ⟨e, ?_⟩
        rintro s rfl hq - hwait
        rw [runPoll_of_nextread_selector hq hwait hb rfl]
        exact he s _ rfl (by rw [runNextread_eq, setRxq_eq, modifyCh_modifyCh])

/-- Settles O31: the POLLs under the two values of the switch have one effect, whose queue the switch empties. -/
theorem rxDrainOnlyEmptiesTheQueue : Obligations.RxDrainOnlyEmptiesTheQueue := by
  intro c s hdrain
  obtain ⟨e, he⟩ := runPoll_effect c s.cfg.rom (s.ch c).rxq (s.ch c).init (s.ch c).selPending
  refine ⟨_, _, rfl, rfl, ?_⟩
  rw [he s rfl rfl rfl rfl, he { s with cfg := { s.cfg with rxDrain := false } } rfl (by simp) (by simp) (by simp)]
  cases c <;> simp [PollEffect.apply, State.modifyCh, hdrain]

/-- Settles O32: the two states agree on all that the effect of a POLL depends on. -/
theorem pollersAreIndependent : Obligations.PollersAreIndependent := by
  intro c s₁ s₂ hcfg hrxq hinit hwait
  obtain ⟨e, he⟩ := runPoll_effect c s₁.cfg.rom (s₁.ch c).rxq (s₁.ch c).init (s₁.ch c).selPending
  refine ⟨e.init, e.selPending, e.started, if s₁.cfg.rxDrain then [] else e.rest, e.out, e.records, ?_⟩
  rintro s (rfl | rfl)
  · exact congrArg _ (he s rfl rfl rfl rfl)
  · rw [hcfg]
    exact congrArg _ (he s (by rw [hcfg]) hrxq.symm hinit.symm hwait.symm)

end Sys2Proof.Machine
end

section
/-!
PROOFS. The SendScheduler (44_send_scheduler.md): who adds to a transmit stream (R193), SEND and its gate (R192), the
wake and its enabling (R190, R191), and the wake split in three steps (R196).
-/

namespace Sys2Proof.Machine

/-! ## R193: what a step adds to the transmit streams -/

/-- What the step of an event `e` may add to the outputs between `s` and `t`: to the stream of a channel nothing, or the
answer of that channel's POLL, or, in a wake with the channel initialised, one frame of the present bitmap; to the log
any records (R31, R54, R65, R193). -/
structure AddsToOutputs (e : Event) (s t : State) : Prop where
  tx : ∀ c, ∃ out : List Byte, (t.ch c).tx = (s.ch c).tx ++ out ∧
    (out = [] ∨ e = .poll c ∨ (e = .wake ∧ (s.ch c).init = true ∧ out = sentFrame s.keys c (s.ch c).ctr))
  log : ∃ records, t.log = s.log ++ records

/-- A step that leaves the transmit streams alone. -/
theorem AddsToOutputs.of_silent {e : Event} {s t : State} (htx : ∀ c, (t.ch c).tx = (s.ch c).tx)
    (hlog : ∃ records, t.log = s.log ++ records) : AddsToOutputs e s t :=
  ⟨fun c => ⟨[], by rw [htx, List.append_nil], .inl rfl⟩, hlog⟩

/-- What is added does not depend on the schedule. -/
theorem AddsToOutputs.of_schedule {e : Event} {s t : State} {agenda : List Event} {tick : Nat}
    (h : AddsToOutputs e { s with agenda := agenda, tick := tick } t) : AddsToOutputs e s t := by
  obtain ⟨htx, hlog⟩ := h
  simp only [ch_mk] at htx
  exact ⟨htx, hlog⟩

/-- A wake adds one whole frame to the stream of a channel, and only where the channel is initialised (R192). -/
theorem tx_runWake (s : State) (c : Channel) :
    ((runWake s).ch c).tx = (s.ch c).tx ∨
      (s.ch c).init = true ∧ ((runWake s).ch c).tx = (s.ch c).tx ++ sentFrame s.keys c (s.ch c).ctr := by
  obtain h | h := ch_runWake s c <;> rw [h]
  · exact .inl rfl
  · cases hinit : (s.ch c).init <;> simp [sentOn, hinit]

theorem runWake_addsToOutputs (s : State) : AddsToOutputs .wake s (runWake s) where
  tx c := by
    obtain h | ⟨hinit, h⟩ := tx_runWake s c
    · exact ⟨[], by rw [h, List.append_nil], .inl rfl⟩
    · exact ⟨_, h, .inr (.inr ⟨rfl, hinit, rfl⟩)⟩
  log := by
    obtain ⟨_, _, _, _, h⟩ := runWake_writes s
    exact ⟨[], by rw [h, List.append_nil]⟩

/-- A POLL adds its answer to its own channel's stream and nothing to the other's. -/
theorem runPoll_addsToOutputs (c : Channel) (s : State) : AddsToOutputs (.poll c) s (runPoll c s) := by
  obtain ⟨init, selPending, started, rxq, out, records, h⟩ := runPoll_writes c s
  rw [h]
  refine ⟨fun c' => ?_, records, rfl⟩
  by_cases hc : c' = c
  · subst hc
    exact ⟨out, by simp, .inr (.inl rfl)⟩
  · exact ⟨[], by simp [ch_modifyCh, hc], .inl rfl⟩

theorem runIngest_addsToOutputs (s : State) : AddsToOutputs .ingest s (runIngest s) := by
  obtain ⟨_, _, _, records, _, _, h⟩ := runIngest_writes s
  rw [h]
  exact .of_silent (fun c => by rw [ch_mk]) ⟨records, rfl⟩

theorem rxAppend_addsToOutputs (c : Channel) (b : Byte) (s : State) : AddsToOutputs (.rx c b) s (s.rxAppend c b) := by
  refine .of_silent (fun c' => ?_) ⟨[], by simp [rxAppend_eq]⟩
  rw [rxAppend_eq, ch_modifyCh]
  split <;> rfl

theorem offerFrame_addsToOutputs (f : List Byte) (s : State) : AddsToOutputs (.offer f) s (s.offerFrame f) :=
  .of_silent (fun c => by cases c <;> rfl) ⟨[], by simp [State.offerFrame]⟩

theorem step_addsToOutputs {s t : State} (h : step s = .next t) (hreset : (nextEvent s).1 ≠ .reset) :
    AddsToOutputs (nextEvent s).1 s t := by
  obtain ⟨agenda, tick, u, rfl, ⟨c, he, rfl⟩ | ⟨he, rfl⟩ | ⟨he, rfl⟩ | ⟨c, b, he, rfl⟩ | ⟨f, he, rfl⟩ | ⟨he, -⟩⟩ :=
    step_next_cases h
  · exact he ▸ (runPoll_addsToOutputs c _).of_schedule
  · exact he ▸ (runWake_addsToOutputs _).of_schedule
  · exact he ▸ (runIngest_addsToOutputs _).of_schedule
  · exact he ▸ (rxAppend_addsToOutputs c b _).of_schedule
  · exact he ▸ (offerFrame_addsToOutputs f _).of_schedule
  · exact absurd he hreset

/-- Settles O57: the event's own operation adds to the outputs only what that event may add. -/
theorem framesOnlyWhileScanning : Obligations.FramesOnlyWhileScanning := by
  intro s t h hreset
  obtain ⟨htx, hlog⟩ := step_addsToOutputs h hreset
  exact ⟨htx, hlog⟩

/-! ## SEND -/

theorem sentOn_of_init {ch : ChannelState} (h : ch.init = true) (s : State) (c : Channel) :
    sentOn s c ch = { ch with ctr := ch.ctr + 1, tx := ch.tx ++ sentFrame s.keys c ch.ctr } :=
  if_pos h

theorem sentOn_of_not_init {ch : ChannelState} (h : ch.init = false) (s : State) (c : Channel) : sentOn s c ch = ch :=
  if_neg (by simp [h])

/-- An update of a channel is decided by what it does to the channel's present state. -/
theorem modifyCh_congr {s : State} {c : Channel} {f g : ChannelState → ChannelState} (h : f (s.ch c) = g (s.ch c)) :
    s.modifyCh c f = s.modifyCh c g := by
  cases c <;> simp_all [State.modifyCh]

/-- Settles O33: SEND updates its channel by `sentOn`, which `init[c]` gates. -/
theorem sendIsGated : Obligations.SendIsGated := fun c s =>
  ⟨fun hinit => congrArg _ ((runSend_eq c s).trans (modifyCh_congr (sentOn_of_init hinit s c))),
    fun hinit => congrArg _ ((runSend_eq c s).trans (modifyCh_of_fixed (sentOn_of_not_init hinit s c)))⟩

/-! ## WAKE -/

/-- Settles O35: a wake is enabled by `sched_started`. -/
theorem wakeBeforeStartIsIdle : Obligations.WakeBeforeStartIsIdle := fun _ hstart =>
  congrArg Host.Outcome.next (runWake_of_not_started hstart)

theorem runWake_of_atomic {s : State} (hstart : s.schedStarted = true) (hatomic : s.cfg.wakeAtomic = true) :
    runWake s = runWholeWake s := by
  simp [runWake, hstart, hatomic]

/-- Settles O34: the whole wake clears `change` and runs `sentOn` on both channels. -/
theorem wakeSendsOnScanningChannels : Obligations.WakeSendsOnScanningChannels := by
  intro s hstart hatomic
  refine ⟨runWholeWake s, congrArg Host.Outcome.next (runWake_of_atomic hstart hatomic), ?change, ch_runWholeWake s,
    ?rest⟩
  case change => rw [runWholeWake_eq]
  case rest => simp [runWholeWake_eq]

/-! ## The split wake -/

section
variable {s : State} (hstart : s.schedStarted = true) (hsplit : s.cfg.wakeAtomic = false)
include hstart hsplit

theorem runWake_of_idle (hphase : s.wakePhase = .idle) :
    runWake s = { s with change := false, wakePhase := .sendR } := by
  simp [runWake, runWakePart, hstart, hsplit, hphase]

theorem runWake_of_sendR (hphase : s.wakePhase = .sendR) :
    runWake s = { s with chR := sentOn s .R s.chR, wakePhase := .sendL } := by
  simp [runWake, runWakePart, hstart, hsplit, hphase, runSend_eq, State.modifyCh]

theorem runWake_of_sendL (hphase : s.wakePhase = .sendL) :
    runWake s = { s with chL := sentOn s .L s.chL, wakePhase := .idle } := by
  simp [runWake, runWakePart, hstart, hsplit, hphase, runSend_eq, State.modifyCh]

/-- R196: the three parts in a row are the whole wake. -/
theorem runWake_three_parts (hphase : s.wakePhase = .idle) : runWake (runWake (runWake s)) = runWholeWake s := by
  have hsendR := runWake_of_sendR (s := { s with change := false, wakePhase := .sendR }) hstart hsplit rfl
  have hsendL := runWake_of_sendL
    (s := { s with change := false, chR := sentOn s .R s.chR, wakePhase := .sendL }) hstart hsplit rfl
  calc runWake (runWake (runWake s))
    _ = runWake (runWake { s with change := false, wakePhase := .sendR }) := by
      rw [runWake_of_idle hstart hsplit hphase]
    _ = runWake { s with change := false, chR := sentOn s .R s.chR, wakePhase := .sendL } := congrArg runWake hsendR
    _ = { s with change := false, chR := sentOn s .R s.chR, chL := sentOn s .L s.chL, wakePhase := .idle } := hsendL
    _ = runWholeWake s := by rw [runWholeWake_eq, hphase]

end

/-- A wake does not read the schedule. -/
theorem runWake_withAgenda (s : State) (es : List Event) : runWake (s.withAgenda es) = (runWake s).withAgenda es := by
  obtain ⟨hstart, h⟩ | ⟨hstart, ⟨hatomic, h⟩ | ⟨hsplit, hphase, h⟩ | ⟨hsplit, hphase, h⟩ | ⟨hsplit, hphase, h⟩⟩ :=
    runWake_cases s
  · rw [h]
    exact runWake_of_not_started hstart
  · rw [h]
    exact (runWake_of_atomic (s := s.withAgenda es) hstart hatomic).trans (runWholeWake_eq _)
  · rw [h]
    exact runWake_of_idle hstart hsplit hphase
  · rw [h]
    exact runWake_of_sendR hstart hsplit hphase
  · rw [h]
    exact runWake_of_sendL hstart hsplit hphase

/-- A run over settled wakes is as many wake steps, whole or split. -/
theorem run_wake_steps (s : State) (es : List Event) (n : Nat) :
    core.run n (s.withAgenda (List.replicate n .wake ++ es)) = .next ((runWake^[n] s).withAgenda es) := by
  induction n generalizing s with
  | zero => exact run_zero _
  | succ n ih =>
    have hstep : step (s.withAgenda (.wake :: (List.replicate n .wake ++ es))) =
        .next ((runWake s).withAgenda (List.replicate n .wake ++ es)) :=
      (step_withAgenda_of_agent (i := .wake) rfl s _).trans (congrArg Host.Outcome.next (runWake_withAgenda s _))
    exact (run_succ n hstep).trans (ih (runWake s))

/-- Settles O36: the run ends in the whole wake of `s`, which neither the schedule nor the switch shows in. -/
theorem splitWakeComposes : Obligations.SplitWakeComposes := by
  intro s es hstart hsplit hphase
  have hrun : core.run 3 (s.withAgenda (.wake :: .wake :: .wake :: es)) = .next ((runWholeWake s).withAgenda es) := by
    rw [← runWake_three_parts hstart hsplit hphase]
    exact run_wake_steps s es 3
  refine ⟨_, _, hrun, congrArg Host.Outcome.next (runWake_of_atomic hstart rfl), ?_⟩
  rw [runWholeWake_eq, runWholeWake_eq]
  rfl

end Sys2Proof.Machine
end

section
/-!
PROOFS. The IngestBridge (45_ingest_bridge.md): what the reset signal, a bitmap frame and a malformed frame do (R201,
R202, R204 to R206, R209), which of them INGEST runs (R200), and that the steps of a frame applied bit by bit are the
whole frame (R208).
-/

namespace Sys2Proof.Machine

/-! ## The change detector -/

/-- R59: key `i*8 + j` is bit `j` of byte `i`. -/
theorem keyBit_mul_add (f : RawFrame) (i : Nat) {j : Nat} (hj : j < 8) :
    keyBit f (i * 8 + j) = (f.getD i 0).getLsbD j := by
  have hbyte : (i * 8 + j) / 8 = i := by omega
  have hbit : (i * 8 + j) % 8 = j := by omega
  rw [keyBit, hbyte, hbit]

/-- The 240 key bits are all of a raw frame (R59). -/
theorem rawFrame_ext {f g : RawFrame} (h : ∀ k, k < Param.nKeys → keyBit f k = keyBit g k) : f = g := by
  refine Vector.ext fun i hi => BitVec.eq_of_getLsbD_eq fun j hj => ?_
  simp only [Param.rawLen_eq] at hi
  have hkey : keyBit f (i * 8 + j) = keyBit g (i * 8 + j) := h _ (by simp only [Param.nKeys_eq]; omega)
  rwa [keyBit_mul_add f i hj, keyBit_mul_add g i hj, rawFrame_getD f i hi, rawFrame_getD g i hi] at hkey

theorem changedKeys_eq (prev f : RawFrame) :
    changedKeys prev f = (List.range Param.nKeys).filter fun k => keyBit f k != keyBit prev k :=
  List.filter_congr fun k _ => keyChanged_eq prev f k

theorem changedKeys_eq_nil_iff {prev f : RawFrame} : changedKeys prev f = [] ↔ f = prev := by
  constructor
  · intro hnil
    exact rawFrame_ext fun k hk => keyBit_of_not_changed hk (by simp [hnil])
  · rintro rfl
    exact List.eq_nil_iff_forall_not_mem.mpr fun k hk => (mem_changedKeys.mp hk).2 rfl

/-- R202, R205: a bit has changed just when the frames differ. -/
theorem anyChanged_eq (prev f : RawFrame) : anyChanged prev f = decide (f ≠ prev) := by
  rw [Bool.eq_iff_iff]
  simp [anyChanged, changedKeys_eq_nil_iff]

/-! ## The three frames -/

/-- Settles O42: R231's effect of the condition E_MALFORMED_INGEST. -/
theorem malformedFrameOnlyLogs : Obligations.MalformedFrameOnlyLogs := fun _ s =>
  congrArg Host.Outcome.next (takeCondition_malformedIngest s)

/-- Settles O39: the cleared bitmap reads 0 at every key. -/
theorem resetSignalClearsBitmap : Obligations.ResetSignalClearsBitmap := fun s =>
  ⟨runIngReset s, rfl, fun _ => BitVec.getLsbD_zero, rfl⟩

/-- R202: a changed key takes the frame's bit, any other key stays. -/
theorem readKey_runIngBitmap (f : RawFrame) (s : State) {k : Nat} (hk : k < Param.nKeys) :
    readKey (runIngBitmap f s).keys k = if keyChanged s.prev f k then keyBit f k else readKey s.keys k := by
  have hkey : k ∈ changedKeys s.prev f ↔ keyChanged s.prev f k = true := by
    simp [mem_changedKeys, keyChanged_eq, hk]
  have hwrite := readKey_writeKeys f (changedKeys s.prev f) s.keys k fun m hm => (mem_changedKeys.mp hm).1
  simp only [hkey] at hwrite
  exact hwrite

/-- Settles O40: the keys are read off one by one, and `change` is raised by what `changed` comes to. -/
theorem bitmapFrameWritesChangedKeys : Obligations.BitmapFrameWritesChangedKeys := by
  intro f s
  refine ⟨(runIngBitmap f s).keys, ?next, fun i j hi hj => ?key⟩
  case next =>
    rw [← anyChanged_eq]
    rfl
  case key =>
    have hk : i * 8 + j < Param.nKeys := by simp only [Param.nKeys_eq]; omega
    rw [readKey_runIngBitmap f s hk, keyChanged_eq, keyBit_mul_add f i hj, keyBit_mul_add s.prev i hj,
      BitVec.getLsbD_xor]

/-- R206: the frame last accepted changes nothing. -/
theorem runIngBitmap_of_prev {f : RawFrame} {s : State} (h : s.prev = f) : runIngBitmap f s = s := by
  subst h
  have hnone : changedKeys s.prev s.prev = [] := changedKeys_eq_nil_iff.mpr rfl
  simp [runIngBitmap, anyChanged, hnone, writeKeys]

/-- Settles O41: after the first frame, that frame is `prev`. -/
theorem repeatedFrameChangesNothing : Obligations.RepeatedFrameChangesNothing := fun f s =>
  ⟨runIngBitmap f s, rfl, congrArg Host.Outcome.next (runIngBitmap_of_prev rfl)⟩

/-! ## INGEST -/

section
variable {s : State} {f : List Byte} {rest : List (List Byte)} (hwork : s.ingWork = none)
include hwork

/-- R200: with no frame ready, INGEST idles (log 6). -/
theorem runIngest_of_empty (hing : s.ing = []) : runIngest s = s := by
  simp only [runIngest, hwork, State.ingestNext, hing]

theorem runIngest_of_reset (hing : s.ing = [Param.resetByte] :: rest) :
    runIngest s = runIngReset { s with ing := rest } := by
  simp only [runIngest, hwork, State.ingestNext, hing, classifyFrame_reset]

theorem runIngest_of_malformed (hing : s.ing = f :: rest) (hf : isMalformedFrame f = true) :
    runIngest s = runIngMalformed f { s with ing := rest } := by
  simp only [runIngest, hwork, State.ingestNext, hing, classifyFrame_malformed hf]

theorem runIngest_of_bitmap {g : RawFrame} (hing : s.ing = g.toList :: rest) (hatomic : s.cfg.ingestAtomic = true) :
    runIngest s = runIngBitmap g { s with ing := rest } := by
  simp only [runIngest, hwork, State.ingestNext, hing, classifyFrame_bitmap, hatomic, if_true]

theorem runIngest_of_split_bitmap {g : RawFrame} (hing : s.ing = g.toList :: rest)
    (hsplit : s.cfg.ingestAtomic = false) : runIngest s = beginBitmap g { s with ing := rest } := by
  simp only [runIngest, hwork, State.ingestNext, hing, classifyFrame_bitmap, hsplit, Bool.false_eq_true, if_false]

end

/-- R94, R201: the reset signal is the one byte 71. -/
theorem eq_resetFrame_iff (f : List Byte) : f = [Param.resetByte] ↔ f.length = 1 ∧ f[0]? = some 71 := by
  have hbyte : Param.resetByte = 71 := rfl
  constructor
  · rintro rfl
    exact ⟨rfl, rfl⟩
  · rintro ⟨hlen, hhead⟩
    obtain ⟨b, rfl⟩ := List.length_eq_one_iff.mp hlen
    simpa [hbyte] using hhead

/-- Settles O38: each class of frame runs its own operation. -/
theorem ingestClassifiesFrames : Obligations.IngestClassifiesFrames := by
  intro s hwork
  refine ⟨fun hing => ?idle, fun f rest hing => ⟨fun hreset => ?reset, fun g hbitmap hatomic => ?bitmap,
    fun hreset hlen => ?malformed⟩⟩
  case idle => exact congrArg Host.Outcome.next (runIngest_of_empty hwork hing)
  case reset =>
    obtain rfl := (eq_resetFrame_iff f).mpr hreset
    exact ⟨_, rfl, congrArg Host.Outcome.next (runIngest_of_reset hwork hing)⟩
  case bitmap =>
    subst hbitmap
    exact ⟨_, rfl, congrArg Host.Outcome.next (runIngest_of_bitmap hwork hing hatomic)⟩
  case malformed =>
    have hf : isMalformedFrame f = true := by
      simpa [isMalformedFrame, hlen] using (eq_resetFrame_iff f).not.mpr hreset
    exact ⟨_, rfl, congrArg Host.Outcome.next (runIngest_of_malformed hwork hing hf)⟩

/-! ## A frame applied bit by bit -/

/-- What is left of a frame in progress, done at once: the keys not yet written, `prev` and the change signal. -/
def finishBitmap (w : IngestWork) (s : State) : State :=
  { s with
    keys := writeKeys w.frame w.todo s.keys
    prev := w.frame
    change := s.change || w.changed
    ingWork := none }

/-- R208: from its first step a frame has all of ING.BITMAP left to do. -/
theorem finishBitmap_beginBitmap {s : State} (hwork : s.ingWork = none) (f : RawFrame) :
    finishBitmap ⟨f, changedKeys s.prev f, anyChanged s.prev f⟩ (beginBitmap f s) = runIngBitmap f s := by
  rw [finishBitmap, ← hwork]
  rfl

/-- With a frame in progress, a settled INGEST goes on with it. -/
theorem step_ingest_of_split {s : State} {w : IngestWork} (hwork : s.ingWork = some w) (es : List Event) :
    step (s.withAgenda (.ingest :: es)) = .next ((continueBitmap w s).withAgenda es) := by
  have hcontinue : runIngest (s.withAgenda es) = continueBitmap w (s.withAgenda es) := by
    simp only [runIngest, State.withAgenda, hwork]
  have hagenda : continueBitmap w (s.withAgenda es) = (continueBitmap w s).withAgenda es := by
    unfold continueBitmap
    split <;> rfl
  rw [step_withAgenda_of_agent (i := .ingest) rfl]
  exact congrArg Host.Outcome.next (hcontinue.trans hagenda)

/-- A run over settled INGEST steps, one for each key left and one more, finishes the frame in progress. -/
theorem run_split_bitmap {s : State} (f : RawFrame) (todo : List Nat) (changed : Bool)
    (hwork : s.ingWork = some ⟨f, todo, changed⟩) (es : List Event) :
    core.run (todo.length + 1) (s.withAgenda (List.replicate (todo.length + 1) .ingest ++ es)) =
      .next ((finishBitmap ⟨f, todo, changed⟩ s).withAgenda es) := by
  induction todo generalizing s with
  | nil => exact (run_succ 0 (step_ingest_of_split hwork es)).trans (run_zero _)
  | cons k ks ih => exact (run_succ _ (step_ingest_of_split hwork _)).trans (ih rfl)

/-- Settles O43: the first step takes the frame; by induction on the keys to write, the others finish it. -/
theorem splitFrameComposes : Obligations.SplitFrameComposes := by
  intro s f rest es n hsplit hwork hing hn
  have hlen : n = (changedKeys s.prev f).length := hn.trans (congrArg List.length (changedKeys_eq s.prev f).symm)
  have htake (es' : List Event) : step (s.withAgenda (.ingest :: es')) =
      .next ((beginBitmap f { s with ing := rest }).withAgenda es') :=
    (step_withAgenda_of_agent (i := .ingest) rfl s es').trans
      (congrArg Host.Outcome.next (runIngest_of_split_bitmap (s := s.withAgenda es') hwork hing hsplit))
  refine ⟨(runIngBitmap f { s with ing := rest }).withAgenda es, ?_, rfl⟩
  rw [List.replicate_succ, List.cons_append, run_succ _ (htake _), hlen,
    ← finishBitmap_beginBitmap (s := { s with ing := rest }) hwork f]
  exact run_split_bitmap f _ _ rfl es

end Sys2Proof.Machine
end

section
/-!
PROOFS. Exceptions and traps (60_exceptions.md): nothing stops the block (R220, R239), and a channel's mode changes only by
the command bytes of that channel or by the reset input (R234).
-/

namespace Sys2Proof.Machine

/-! ## No step stops the block -/

/-- Settles O47: an agent's operation, an action of the environment and the reset input all answer a state. -/
theorem stepAlwaysAnswers : Obligations.StepAlwaysAnswers := by
  intro s
  obtain ⟨c, -, h⟩ | ⟨-, h⟩ | ⟨-, h⟩ | ⟨c, b, -, h⟩ | ⟨f, -, h⟩ | ⟨-, h⟩ := step_cases s
  all_goals exact ⟨_, h⟩

end Sys2Proof.Machine

namespace Sys2Proof

/-! ## What sets and clears `init[c]` -/

/-- What a command leaves in `init[c]`, given what it finds there (R160): START sets it, a selector and OTHER keep it, the
other rows clear it. -/
def Command.initAfter : Command → Bool → Bool
  | .start, _ => true
  | .nextreadSel _, init => init
  | .other _, init => init
  | _, _ => false

/-- A command that changes `init[c]` is an opcode, and has the code of START where it sets the flag and that of a row that
clears it where it clears it. -/
theorem Command.byte_of_initAfter_ne {cmd : Command} {init : Bool} (rom : Rom) (h : cmd.initAfter init ≠ init) :
    cmd.isSelector = false ∧
      if cmd.initAfter init then cmd.byte rom = rom.cmdStart
      else cmd.byte rom = rom.cmdSyncver ∨ cmd.byte rom = rom.cmdNextread ∨ cmd.byte rom = rom.cmdUnitver ∨
        cmd.byte rom = rom.cmdMyst1 ∨ cmd.byte rom = rom.cmdMyst2 ∨ cmd.byte rom = 154 := by
  cases cmd with
  | nextreadSel sel => exact absurd rfl h
  | other b => exact absurd rfl h
  | start => exact ⟨rfl, rfl⟩
  | errstat => exact ⟨rfl, .inr (.inr (.inr (.inr (.inr rfl))))⟩
  | syncver | nextread | unitver | myst1 | myst2 => simp [Command.isSelector, Command.initAfter, Command.byte]

end Sys2Proof

namespace Sys2Proof.Machine

theorem init_answer (c : Channel) (v : Bool) (response : List Byte) (s : State) :
    ((answer c v response s).ch c).init = v := by
  simp [answer_eq]

theorem init_runCommand (c : Channel) (cmd : Command) (s : State) :
    ((runCommand c cmd s).ch c).init = cmd.initAfter (s.ch c).init := by
  cases cmd with
  | syncver | unitver | myst1 | myst2 => exact init_answer c false _ s
  | start =>
    rw [runCommand, runStart_eq]
    exact init_answer c true _ _
  | nextread => simp [runCommand, runNextread_eq, Command.initAfter]
  | nextreadSel sel =>
    rw [runCommand]
    cases htable : selectTable s.cfg.rom sel with
    | none => simp [runNextreadSel_of_no_table htable, Command.initAfter]
    | some table => simp [runNextreadSel_of_table htable, Command.initAfter]
  | errstat => simp [runCommand, runErrstat, takeCondition_errstat, Command.initAfter]
  | other b => rfl

theorem init_setRxq (c : Channel) (q : List Byte) (s : State) : ((s.setRxq c q).ch c).init = (s.ch c).init := by
  simp [setRxq_eq]

theorem init_drain (c : Channel) (s : State) : ((drain c s).ch c).init = (s.ch c).init := by
  unfold drain
  split
  · exact init_setRxq c [] s
  · rfl

/-- A selector keeps the mode that the command byte of next-read left (R153). -/
theorem init_takeSelector {s : State} {c : Channel} (hwait : (s.ch c).selPending = true) :
    ((takeSelector c s).ch c).init = (s.ch c).init := by
  cases hq : (s.ch c).rxq with
  | nil => rw [takeSelector_of_empty hq]
  | cons sel q =>
    rw [takeSelector_of_cons hwait hq]
    exact (init_runCommand c (.nextreadSel sel) _).trans (init_setRxq c q s)

/-- The first byte of a POLL alone decides what it leaves in `init[c]`. -/
theorem init_runPoll {s : State} {c : Channel} {b : Byte} {q : List Byte} (hq : (s.ch c).rxq = b :: q) :
    ((runPoll c s).ch c).init = (decodeByte s.cfg.rom (s.ch c).selPending b).initAfter (s.ch c).init := by
  by_cases hnext : (s.ch c).selPending = false ∧ b = s.cfg.rom.cmdNextread
  case neg =>
    have hdispatch := init_runCommand c (decodeByte s.cfg.rom (s.ch c).selPending b) (s.setRxq c q)
    rw [init_setRxq, ← runDispatch_setRxq] at hdispatch
    rw [runPoll_of_whole_command hq hnext, drainIf, ← hdispatch]
    split
    · exact init_setRxq c [] _
    · rfl
  case pos =>
    obtain ⟨hwait, hb⟩ := hnext
    rw [runPoll_of_nextread hq hwait hb, init_drain, init_takeSelector (by simp [runNextread_eq]),
      (decodeByte_eq_nextread_iff _ _ _).mpr ⟨hwait, hb⟩]
    exact (init_runCommand c .nextread _).trans rfl

/-! ## R234: what changes the mode of a channel -/

/-- R234, for the step of a Poller: a POLL that changes `init[c]` took an opcode that does. -/
theorem first_byte_of_init_runPoll_ne {s : State} {c : Channel} (hne : ((runPoll c s).ch c).init ≠ (s.ch c).init) :
    (s.ch c).selPending = false ∧ ∃ b q, (s.ch c).rxq = b :: q ∧
      if ((runPoll c s).ch c).init then b = s.cfg.rom.cmdStart
      else b = s.cfg.rom.cmdSyncver ∨ b = s.cfg.rom.cmdNextread ∨ b = s.cfg.rom.cmdUnitver ∨
        b = s.cfg.rom.cmdMyst1 ∨ b = s.cfg.rom.cmdMyst2 ∨ b = 154 := by
  cases hq : (s.ch c).rxq with
  | nil => exact absurd (by rw [runPoll_of_empty hq]) hne
  | cons b q =>
    obtain ⟨-, hsel, hbyte⟩ := decodeByte_spec s.cfg.rom c (s.ch c).selPending b
    rw [init_runPoll hq] at hne ⊢
    obtain ⟨hopcode, hcode⟩ := Command.byte_of_initAfter_ne s.cfg.rom hne
    rw [hbyte] at hcode
    exact ⟨hsel.symm.trans hopcode, b, q, rfl, hcode⟩

theorem ch_nextEvent (s : State) (c : Channel) : (nextEvent s).2.ch c = s.ch c := by
  obtain ⟨agenda, tick, h⟩ := nextEvent_snd s
  rw [h, ch_mk]

theorem cfg_nextEvent (s : State) : (nextEvent s).2.cfg = s.cfg := by
  obtain ⟨agenda, tick, h⟩ := nextEvent_snd s
  rw [h]

theorem step_of_reset {s : State} (h : (nextEvent s).1 = .reset) : step s = .next (nextEvent s).2.hardReset := by
  simp only [step, h, agentInstr, environment]

theorem step_of_poll {s : State} {c : Channel} (h : (nextEvent s).1 = .poll c) :
    step s = .next (runPoll c (nextEvent s).2) := by
  simp only [step, h, agentInstr, exec, execPoll]

/-- Settles O55: apart from the reset input only the channel's own POLL writes `init[c]` (R34), and that POLL's first byte
decides what it writes. -/
theorem modeChangesOnlyByItsCommands : Obligations.ModeChangesOnlyByItsCommands := by
  intro s t c hstep hne
  by_cases hreset : (nextEvent s).1 = .reset
  case pos =>
    obtain rfl := Host.Outcome.next.inj ((step_of_reset hreset).symm.trans hstep)
    exact .inl ⟨hreset, congrArg ChannelState.init (ch_hardReset _ c)⟩
  case neg =>
    have hpoll : (nextEvent s).1 = .poll c := (step_writesAsOwner hstep hreset).flags c (.inl hne)
    obtain rfl := Host.Outcome.next.inj ((step_of_poll hpoll).symm.trans hstep)
    have hbyte := first_byte_of_init_runPoll_ne (ch_nextEvent s c ▸ hne)
    rw [ch_nextEvent, cfg_nextEvent] at hbyte
    exact .inr ⟨hpoll, hbyte⟩

end Sys2Proof.Machine
end

section
/-!
PROOFS. Reset and hazards (70_reset_and_hazards.md): the reset input (R250, R252), and the zero frame before the reset signal
that makes both values of `RESET_CLEARS_PREV` agree (R266).
-/

namespace Sys2Proof.Machine

/-! ## The reset input -/

/-- Settles O49: the step is `State.hardReset`, which builds on the reset state with the present parameters. -/
theorem hardwareResetClearsEverything : Obligations.HardwareResetClearsEverything := by
  intro s es
  refine ⟨(s.withAgenda es).hardReset, step_of_reset rfl, ?_⟩
  exact ⟨rfl, fun i _ => getD_zeroFrame i, rfl, rfl, ch_hardReset _, rfl, rfl, rfl, rfl, rfl, rfl⟩

/-! ## The zero frame before the reset signal -/

/-- R203: with a zero previous frame, clearing it or not is the same. -/
theorem runIngReset_of_zero_prev {s : State} (h : s.prev = Vector.replicate _ 0) : runIngReset s = { s with keys := 0 } := by
  simp only [runIngReset, ← h, ite_self]

/-- The reset signal after a zero frame: the bitmap and the previous frame are zero, and `change` is raised if the frame
before the zero frame held a key down. -/
theorem exec_ingReset_after_zeroFrame (s : State) :
    exec .ingReset (runIngBitmap (Vector.replicate _ 0) s) =
      .next { s with
        keys := 0
        prev := Vector.replicate _ 0
        change := s.change || anyChanged s.prev (Vector.replicate _ 0) } :=
  congrArg Host.Outcome.next (runIngReset_of_zero_prev rfl)

/-- Settles O44: under either value of the parameter the two frames leave the zero bitmap and the zero previous frame. -/
theorem zeroFrameBeforeResetAgrees : Obligations.ZeroFrameBeforeResetAgrees := by
  intro s b
  refine ⟨_, _, _, _, rfl, exec_ingReset_after_zeroFrame s, rfl, exec_ingReset_after_zeroFrame _, ?sameButCfg, ?agrees⟩
  case sameButCfg => rfl
  case agrees => exact bitmapAgrees_of_zero rfl rfl

end Sys2Proof.Machine
end
